-- ==== Sys2Proof/Word.lean ====
section
/-! DEFINITION. The words of the Packed Vector Codec and the five-word transaction that carries a command. -/

namespace Sys2Proof

/-- A 32-bit word: W, every operand and the response (R8, R30). -/
abbrev Word := BitVec 32

/-- A byte of the byte view of a word (R29). -/
abbrev Byte := BitVec 8

/-- A level of `x`, `y` or `z`: 0 to 1023 (R14, R16). -/
abbrev Level10 := BitVec 10

/-- A level of `w`: 0 to 3 (R14, R16). -/
abbrev Level2 := BitVec 2

/-- One transaction from the host to the block: the command word and four operand words, in transaction
order (R40, R42). -/
structure Transaction where
  cmd : Word
  opa : Word
  opb : Word
  opc : Word
  opd : Word
  deriving DecidableEq, Repr

end Sys2Proof
end

