-- ==== Sys2Proof/Config.lean ====
section
/-! DEFINITION. What is fixed for the block (its identity, its fields) and the one value that the spec leaves
open and the model leaves free. -/

namespace Sys2Proof

/-- The four fields of the storage word (R14, R16). -/
inductive Field where
  | x
  | y
  | z
  | w
  deriving DecidableEq, Repr

/-- The identity string of the block; no command reads it (R2). -/
def Config.identity : String := "PVC-2-10-10-10"

/-- FREE VALUE: the word that W holds after the `n`-th reset, before the first `CREATE` or `FROMRAW`. The spec says
that it is "some 32-bit value that no rule fixes, which may differ between resets" and that a model must not pick
it (R27, R105). It has no body, so nothing can evaluate it or prove a value of it.
DESIGN CHOICE, log 1, unsafe: two blocks, or two runs, at the same reset number share the word. -/
opaque Config.resetWord : Nat → Word

end Sys2Proof
end

