-- ==== Sys2Proof/Machine/Binary32.lean ====
section
/-! DEFINITION. IEEE 754 binary32 as R9 gives it: the fields of a datum, the value of a datum, and rounding to nearest
with ties to even. A finite value is held exactly, as an integer number of units of 2^-149, the smallest positive
subnormal; every finite binary32 value is one (log 7). -/

namespace Sys2Proof.Machine

/-- The value of a binary32 datum (R9): a real number, an infinity, or NaN. -/
inductive F32Val where
  | nan
  | inf (negative : Bool)
  /-- The real number `units` × 2^-149. -/
  | finite (units : Int)
  deriving DecidableEq, Repr

/-- Bit 31, the sign (R9). -/
def f32Negative (b : Word) : Bool := b.getLsbD 31

/-- Bits 30:23, the biased exponent (R9). -/
def f32Exponent (b : Word) : Nat := (b.extractLsb' 23 8).toNat

/-- Bits 22:0, the fraction (R9). -/
def f32Fraction (b : Word) : Nat := (b.extractLsb' 0 23).toNat

/-- "`isNaN(b)` is true when `b[30:23] = 255` and `b[22:0] ≠ 0`" (R9). -/
def isNaN (b : Word) : Bool := f32Exponent b == 255 && f32Fraction b != 0

/-- The number of units of 2^-149 in the real number 1. -/
def unitsOfOne : Nat := 2 ^ 149

/-- The magnitude of a finite datum in units of 2^-149 (R9): the fraction where the exponent field is 0 (zero and
subnormals), else the fraction with its leading one, times 2^(exponent - 1). -/
def magUnits (b : Word) : Nat :=
  if f32Exponent b = 0 then f32Fraction b
  else (2 ^ 23 + f32Fraction b) * 2 ^ (f32Exponent b - 1)

/-- `f32val(b)` (R9). Both zeros denote the real number 0. -/
def f32val (b : Word) : F32Val :=
  if isNaN b then .nan
  else if f32Exponent b = 255 then .inf (f32Negative b)
  else .finite (if f32Negative b then -(magUnits b : Int) else (magUnits b : Int))

/-- The order of the values of data that are not NaN; a NaN is below and above nothing (R64). -/
def F32Val.le : F32Val → F32Val → Bool
  | .nan, _ => false
  | _, .nan => false
  | .inf true, _ => true
  | .finite _, .inf n => !n
  | .finite a, .finite b => a ≤ b
  | .inf false, .inf n => !n
  | .inf false, .finite _ => false

/-- The integer nearest to `n / d`, a tie going to the even one (roundTiesToEven, R9). -/
def divHalfEven (n d : Nat) : Nat :=
  let q := n / d
  let r := n % d
  if 2 * r < d then q
  else if d < 2 * r then q + 1
  else if q % 2 = 0 then q else q + 1

/-- How many bits `q` has in excess of the 24 of a significand; 0 where it has 24 or fewer. -/
def excessBits (q : Nat) : Nat := q.log2 - 23

/-- The non-negative real `n / d` units, rounded once to the nearest binary32 datum, ties to the even fraction (R9).
With `k` bits in excess of 24, the significand is rounded at 2^k units, and the datum's word is 2^23 × `k` plus the
rounded significand, whose leading one (and carry) adds 1 to the exponent field. Past the largest finite datum it is
+∞ (log 15). -/
def roundUnits (n d : Nat) : Word :=
  let k := excessBits (n / d)
  BitVec.ofNat 32 (min (2 ^ 23 * k + divHalfEven n (d * 2 ^ k)) 0x7F800000)

/-- `RNE32(num / den)` for a non-negative rational (R9); `RNE32(0)` is +0.0. -/
def rne32 (num den : Nat) : Word := roundUnits (unitsOfOne * num) den

end Sys2Proof.Machine
end

