-- ==== Sys2Proof/Machine/Datapath.lean ====
section
/-! DEFINITION. The block's combinational parts (R56 to R73): clamper, scaler, round-to-integer converter, quantizers,
packer, unpacker, field inserter and normaliser. Each is a pure function of its inputs (R73). -/

namespace Sys2Proof.Machine

/-- The clamper (R56): NaN and values below 0 give +0.0, values above 1 give 1.0, others pass unchanged. -/
def clamp01 (b : Word) : Word :=
  match f32val b with
  | .nan => 0x00000000
  | .inf true => 0x00000000
  | .inf false => 0x3F800000
  | .finite u =>
    if u < 0 then 0x00000000
    else if (unitsOfOne : Int) < u then 0x3F800000
    else b

/-- The scaler (R59): the exact product of a clamped value and `m`, rounded once to binary32. Its argument is an
output of `clamp01`, so it is finite and not below 0, and its magnitude is its value (log 7). -/
def scale (c : Word) (m : Nat) : Word := roundUnits (m * magUnits c) 1

/-- The round-to-integer converter (R60): floor(f32val p + 1/2) on exact reals. With `u` units, that is
floor((2^149 + 2u) / 2^150). Its argument is an output of `scale`, finite and not below 0 (log 7). -/
def roundHalfAway (p : Word) : Nat := (unitsOfOne + 2 * magUnits p) / (2 * unitsOfOne)

/-- `quantize(b, M) = roundHalfAway(scale(clamp01(b), M))` (R62). -/
def quantize (b : Word) (m : Nat) : Nat := roundHalfAway (scale (clamp01 b) m)

/-- The 10-bit quantizer (R63), cast to the field's width (R61). -/
def q10 (b : Word) : Level10 := BitVec.ofNat 10 (quantize b 1023)

/-- The 2-bit quantizer (R63), cast to the field's width (R61). -/
def q2 (b : Word) : Level2 := BitVec.ofNat 2 (quantize b 3)

/-- The packer (R66). -/
def pack (x y z : Level10) (w : Level2) : Word :=
  (w.setWidth 32 <<< 30) ||| (z.setWidth 32 <<< 20) ||| (y.setWidth 32 <<< 10) ||| x.setWidth 32

/-- The unpacker (R67): the levels `(x, y, z, w)`. -/
def unpack (v : Word) : Level10 × Level10 × Level10 × Level2 :=
  (v.extractLsb' 0 10, v.extractLsb' 10 10, v.extractLsb' 20 10, v.extractLsb' 30 2)

/-- The level held in a field (R16, R67). -/
def fieldLevel (v : Word) : Field → Nat
  | .x => (unpack v).1.toNat
  | .y => (unpack v).2.1.toNat
  | .z => (unpack v).2.2.1.toNat
  | .w => (unpack v).2.2.2.toNat

/-- The maximum level of a field (R7): 1023 for `x`, `y`, `z`, and 3 for `w`. -/
def maxLevel : Field → Nat
  | .x => 1023
  | .y => 1023
  | .z => 1023
  | .w => 3

/-- `OFF(f)` (R7, R68). -/
def fieldOff : Field → Nat
  | .x => 0
  | .y => 10
  | .z => 20
  | .w => 30

/-- `MASK(f)` (R68). -/
def fieldMask : Field → Word
  | .x => 0x000003FF
  | .y => 0x000FFC00
  | .z => 0x3FF00000
  | .w => 0xC0000000

/-- The field inserter (R68): `(W & ~MASK(f)) | (k << OFF(f))`, for a level `k` of the field. -/
def insertField (v : Word) (f : Field) (k : Word) : Word :=
  (v &&& ~~~ fieldMask f) ||| (k <<< fieldOff f)

/-- The three-field form of the inserter, used by `SETXYZ` (R68, R86): `w` kept, bits 29:0 replaced. -/
def insertXYZ (v : Word) (x y z : Level10) : Word :=
  (v &&& 0xC0000000) ||| pack x y z 0

/-- The normaliser (R70): the exact quotient `k / m` rounded once to binary32. -/
def normalize (k m : Nat) : Word := rne32 k m

end Sys2Proof.Machine
end

