-- ==== Sys2Proof/Syntax.lean ====
section
/-! DEFINITION. The twelve commands of the block (R46), one constructor per row of the opcode table, each with the
operand words that it reads (R43). Operand words that a command ignores are no part of it (R43, log 9). -/

namespace Sys2Proof

/-- The commands, in the order of the opcode map (R46). Float operands are words read as binary32 (R44). -/
inductive Instr where
  /-- `CREATE fx, fy, fz, fw` (R76). -/
  | create (fx fy fz fw : Word)
  /-- `FROMRAW r` (R77). -/
  | fromraw (r : Word)
  /-- `GETX` (R78). -/
  | getx
  /-- `GETY` (R79). -/
  | gety
  /-- `GETZ` (R80). -/
  | getz
  /-- `GETW` (R81). -/
  | getw
  /-- `SETX f` (R82). -/
  | setx (f : Word)
  /-- `SETY f` (R83). -/
  | sety (f : Word)
  /-- `SETZ f` (R84). -/
  | setz (f : Word)
  /-- `SETW f` (R85). -/
  | setw (f : Word)
  /-- `SETXYZ fx, fy, fz` (R86). -/
  | setxyz (fx fy fz : Word)
  /-- `RAWVAL` (R88). -/
  | rawval
  deriving DecidableEq, Repr

end Sys2Proof
end

