-- ==== Sys2Proof/WellFormed.lean ====
section
/-! DEFINITION. Well-formedness. Every operand of a command is a whole 32-bit word and every word is valid (R44), so the
checks of a command's operands accept everything; what can be ill-formed is a transaction: a reserved bit set, an
opcode without a command (R48), or, for the form that the assembler writes, an ignored operand word that is not
zero (R50). -/

namespace Sys2Proof

/-- "every 32-bit word is a valid float operand, including the words of NaNs, infinities, zeros of either sign and
subnormals" (R44). -/
def validFloat (_ : Word) : Bool := true

/-- "A raw operand denotes the unsigned integer of its bits; every 32-bit word is valid." (R44, R21) -/
def validRaw (_ : Word) : Bool := true

/-- A command is well-formed when its operands are valid (R44). -/
def Instr.wellFormed : Instr → Bool
  | .create fx fy fz fw => validFloat fx && validFloat fy && validFloat fz && validFloat fw
  | .fromraw r => validRaw r
  | .getx => true
  | .gety => true
  | .getz => true
  | .getw => true
  | .setx f => validFloat f
  | .sety f => validFloat f
  | .setz f => validFloat f
  | .setw f => validFloat f
  | .setxyz fx fy fz => validFloat fx && validFloat fy && validFloat fz
  | .rawval => true

/-- The reserved field `RSVD`, bits 31:4 of the command word (R41). -/
def Transaction.rsvd (t : Transaction) : BitVec 28 := t.cmd.extractLsb' 4 28

/-- The opcode field `OP`, bits 3:0 of the command word (R41). -/
def Transaction.op (t : Transaction) : BitVec 4 := t.cmd.extractLsb' 0 4

/-- Check: the reserved field is 0 (R41). -/
def Transaction.reservedClear (t : Transaction) : Bool := t.rsvd == 0#28

/-- Check: the opcode is one of 0x1 to 0xC, that is, not 0x0, 0xD, 0xE or 0xF (R46, R48). -/
def Transaction.opAssigned (t : Transaction) : Bool :=
  !(t.op == 0x0#4 || t.op == 0xD#4 || t.op == 0xE#4 || t.op == 0xF#4)

/-- A transaction that names a command (R46 to R48). -/
def Transaction.wellFormed (t : Transaction) : Bool := t.reservedClear && t.opAssigned

/-- Check: the operand words that the opcode's command ignores are zero, as the assembler writes them (R43, R50). -/
def Transaction.ignoredClear (t : Transaction) : Bool :=
  match t.op.toNat with
  | 1 => true
  | 2 | 7 | 8 | 9 | 10 => t.opb == 0#32 && t.opc == 0#32 && t.opd == 0#32
  | 11 => t.opd == 0#32
  | _ => t.opa == 0#32 && t.opb == 0#32 && t.opc == 0#32 && t.opd == 0#32

/-- The form that the assembler writes (R50): it names a command, and ignored operand words are zero. -/
def Transaction.canonical (t : Transaction) : Bool := t.wellFormed && t.ignoredClear

end Sys2Proof
end

