-- ==== Sys2Proof/Decode.lean ====
section
/-! DEFINITION. The decoder, total on every transaction and on any bytes, and the encoder (R40 to R50). -/

namespace Sys2Proof

/-- Why the decoder refuses. The first two are the closed list of R95. -/
inductive DecodeError where
  /-- `ReservedOpcode(op)`: bits 31:4 are 0 and the opcode has no command (R48, R95). -/
  | reservedOpcode (op : BitVec 4)
  /-- `ReservedBits(cmd)`: bits 31:4 are not 0 (R48, R95). -/
  | reservedBits (cmd : Word)
  /-- Fewer bytes than the 20 of a transaction (R42); only the byte decoder raises it. Safe. -/
  | truncated (length : Nat)
  deriving DecidableEq, Repr

/-- The decoder of R47. The operand words take no part in the choice of the command. -/
def decode (t : Transaction) : Except DecodeError Instr :=
  if t.rsvd = 0#28 then
    match t.op.toNat with
    | 1 => .ok (.create t.opa t.opb t.opc t.opd)
    | 2 => .ok (.fromraw t.opa)
    | 3 => .ok .getx
    | 4 => .ok .gety
    | 5 => .ok .getz
    | 6 => .ok .getw
    | 7 => .ok (.setx t.opa)
    | 8 => .ok (.sety t.opa)
    | 9 => .ok (.setz t.opa)
    | 10 => .ok (.setw t.opa)
    | 11 => .ok (.setxyz t.opa t.opb t.opc)
    | 12 => .ok .rawval
    | _ => .error (.reservedOpcode t.op)
  else .error (.reservedBits t.cmd)

/-- The opcode of a command (R46). -/
def opcode : Instr → BitVec 4
  | .create _ _ _ _ => 0x1
  | .fromraw _ => 0x2
  | .getx => 0x3
  | .gety => 0x4
  | .getz => 0x5
  | .getw => 0x6
  | .setx _ => 0x7
  | .sety _ => 0x8
  | .setz _ => 0x9
  | .setw _ => 0xA
  | .setxyz _ _ _ => 0xB
  | .rawval => 0xC

/-- The encoder of R50: the command word, then the operand words, with zero in every ignored one. -/
def encode : Instr → Transaction
  | .create fx fy fz fw => ⟨0x00000001, fx, fy, fz, fw⟩
  | .fromraw r => ⟨0x00000002, r, 0, 0, 0⟩
  | .getx => ⟨0x00000003, 0, 0, 0, 0⟩
  | .gety => ⟨0x00000004, 0, 0, 0, 0⟩
  | .getz => ⟨0x00000005, 0, 0, 0, 0⟩
  | .getw => ⟨0x00000006, 0, 0, 0, 0⟩
  | .setx f => ⟨0x00000007, f, 0, 0, 0⟩
  | .sety f => ⟨0x00000008, f, 0, 0, 0⟩
  | .setz f => ⟨0x00000009, f, 0, 0, 0⟩
  | .setw f => ⟨0x0000000A, f, 0, 0, 0⟩
  | .setxyz fx fy fz => ⟨0x0000000B, fx, fy, fz, 0⟩
  | .rawval => ⟨0x0000000C, 0, 0, 0, 0⟩

/-- Byte `i` of a word: bits 8i+7 to 8i, little-endian (R29). -/
def byteOf (v : Word) (i : Nat) : Byte := v.extractLsb' (8 * i) 8

/-- The four bytes of a word, byte 0 first (R29). -/
def wordBytes (v : Word) : List Byte := [byteOf v 0, byteOf v 1, byteOf v 2, byteOf v 3]

/-- The word of four bytes, byte 0 first (R29). -/
def bytesWord (b0 b1 b2 b3 : Byte) : Word := b3 ++ b2 ++ b1 ++ b0

/-- The 20 bytes of a transaction: its words in transaction order, each little-endian (R29, R40, log 10). -/
def transactionBytes (t : Transaction) : List Byte :=
  wordBytes t.cmd ++ wordBytes t.opa ++ wordBytes t.opb ++ wordBytes t.opc ++ wordBytes t.opd

/-- The first word of a list of bytes, with the bytes after it. -/
def takeWord : List Byte → Option (Word × List Byte)
  | b0 :: b1 :: b2 :: b3 :: rest => some (bytesWord b0 b1 b2 b3, rest)
  | _ => none

/-- The first transaction of a list of bytes, with the bytes after it; none where fewer than 20 bytes are left. -/
def takeTransaction (bs : List Byte) : Option (Transaction × List Byte) := do
  let (cmd, bs) ← takeWord bs
  let (opa, bs) ← takeWord bs
  let (opb, bs) ← takeWord bs
  let (opc, bs) ← takeWord bs
  let (opd, bs) ← takeWord bs
  return (⟨cmd, opa, opb, opc, opd⟩, bs)

/-- The decoder on bytes: the command of the first 20 bytes and the bytes after it, or why there is none. -/
def decodeBytes (bs : List Byte) : Except DecodeError (Instr × List Byte) :=
  match takeTransaction bs with
  | none => .error (.truncated bs.length)
  | some (t, rest) =>
    match decode t with
    | .ok i => .ok (i, rest)
    | .error e => .error e

/-- The lowest `n` bytes of a number, the least significant first. -/
def natBytes : Nat → Nat → List Byte
  | 0, _ => []
  | n + 1, v => BitVec.ofNat 8 v :: natBytes n (v / 256)

/-- The 20 bytes of the instruction whose low `nbits` bits are those of `w` and whose other bits are 0, numbered as
the opcode table numbers them: bit 0 is bit 0 of the command word (R41, R42, log 10). -/
def tableBytes (nbits w : Nat) : List Byte := natBytes 20 (w % 2 ^ nbits)

/-- The transaction of the same instruction. -/
def tableTransaction (nbits w : Nat) : Transaction :=
  match takeTransaction (tableBytes nbits w) with
  | some (t, _) => t
  | none => ⟨0, 0, 0, 0, 0⟩

/-- The instruction that the decoder reads from a table word. -/
def decodeTableWord (nbits w : Nat) : Option Instr :=
  match decodeBytes (tableBytes nbits w) with
  | .ok (i, _) => some i
  | .error _ => none

end Sys2Proof
end

