-- ==== Sys2Proof/Machine/State.lean ====
section
/-! DEFINITION. The state of the block, the reasons a step can stop, and the state after reset. The hardware's own
state is the word W (R15); the rest is the model state that the spec names (R26) and the host's side of the command
interface (R25, R40). There is no memory, pc, flag, mode or trap register (R22 to R24, R28, R92). -/

namespace Sys2Proof.Machine

/-- The fault reasons: the closed list of R95. -/
inductive Fault where
  /-- `UndefinedW(op)`: the command with this opcode reads W while W is undefined (R94). Raised by
  `checkedExec` (and so by `checkedStep`) only; `step` itself does what the hardware does (log 2). Safe: it stops
  where the hardware goes on. -/
  | undefinedW (op : BitVec 4)
  deriving DecidableEq, Repr

/-- The refusal reasons: `notModelled`, which no arm of `exec` uses, and the closed list of R95. -/
inductive Refusal where
  /-- Raised by no instruction: every command has its meaning. Safe. -/
  | notModelled (mnemonic : String)
  /-- `ReservedOpcode(op)`: bits 31:4 of the command word are 0 and the opcode is 0x0, 0xD, 0xE or 0xF (R48, R93).
  Raised by `step` on a reserved command word. Safe: nothing is proved of a run that issues one. -/
  | reservedOpcode (op : BitVec 4)
  /-- `ReservedBits(cmd)`: bits 31:4 of the command word are not 0 (R48, R93). Raised by `step`. Safe. -/
  | reservedBits (cmd : Word)
  deriving DecidableEq, Repr

/-- What the host can do to the block (R12, R40, R106). -/
inductive HostEvent where
  /-- The host issues a command: one five-word transaction (R40). -/
  | command (t : Transaction)
  /-- Reset is asserted, at power-up or later (R104, R106, log 4). -/
  | reset
  deriving DecidableEq, Repr

/-- The state of the block and of its command interface. -/
structure State where
  /-- The storage word W (R15). -/
  w : Word
  /-- Whether W has a defined value: whether a `CREATE` or `FROMRAW` came after the last reset (R26, R105). -/
  wDefined : Bool
  /-- The response word of the command that completed last; none where it has none (R45, R110, log 5). -/
  rsp : Option Word
  /-- The host's events that the block has not taken yet, oldest first (R34, log 3). -/
  pending : List HostEvent
  /-- The sticky mark of a read of an undefined W (R26, R94). -/
  faulted : Bool
  /-- The sticky mark of a reserved command word (R26, R93). -/
  refused : Bool
  /-- The model's own counter of resets, the argument of the free value `Config.resetWord` (log 1). -/
  resets : Nat
  deriving DecidableEq, Repr

/-- The state right after reset (R27, R106): W holds an unspecified word and is undefined, no response, no mark. -/
def State.reset : State where
  w := Config.resetWord 0
  wDefined := false
  rsp := none
  pending := []
  faulted := false
  refused := false
  resets := 0

end Sys2Proof.Machine
end

