-- ==== Sys2Proof/Machine/Flags.lean ====
section
/-! DEFINITION. The block has no flag, condition code or status register, and no floating-point exception flag (R24, R65):
no command computes one. What stands here is the model's own marks (R26): definedness of W and the two sticky marks. -/

namespace Sys2Proof.Machine

/-- W as R26 views it: undefined, or a 32-bit word. -/
def State.word? (s : State) : Option Word := if s.wDefined then some s.w else none

/-- A command reads W: the sticky mark `faulted` becomes true where W is undefined (R94), and stays as it is
otherwise. -/
def State.noteRead (s : State) : State := { s with faulted := s.faulted || !s.wDefined }

/-- The sticky mark `faulted` becomes true (R94). -/
def State.markFaulted (s : State) : State := { s with faulted := true }

/-- The sticky mark `refused` becomes true (R93). -/
def State.markRefused (s : State) : State := { s with refused := true }

end Sys2Proof.Machine
end

