-- ==== Sys2Proof/Machine/Ops.lean ====
section
/-! DEFINITION. The named operations over the state that the commands share, reset, and taking the host's next event.
There is no exception to take and none to return from (R89, R92, R96), no memory (R28) and no pc (R23). -/

namespace Sys2Proof.Machine

/-- Construction: W takes a whole new value and is defined from then on; no response (R45, R105). -/
def State.construct (s : State) (v : Word) : State := { s with w := v, wDefined := true, rsp := none }

/-- A write of W by a command that keeps some of its fields; definedness stays as it is (R94, R108), no response
(R45). -/
def State.store (s : State) (v : Word) : State := { s with w := v, rsp := none }

/-- `respond(v)` (R10): the response word of the command; W is not written. -/
def State.respond (s : State) (v : Word) : State := { s with rsp := some v }

/-- Reset (R106): the reset state, with the next free value in W; events that the host has not issued yet stay
(log 4). -/
def State.assertReset (s : State) : State :=
  { State.reset with
    w := Config.resetWord (s.resets + 1), resets := s.resets + 1, pending := s.pending }

/-- The state with the head of the host's events taken. -/
def State.takeEvent (s : State) : State := { s with pending := s.pending.tail }

/-- The refusal of a reserved command word (R93, R95). The byte decoder's `truncated` never comes from a transaction. -/
def refusalOf (cmd : Word) : DecodeError → Refusal
  | .reservedOpcode op => .reservedOpcode op
  | .reservedBits c => .reservedBits c
  | .truncated _ => .reservedBits cmd

/-- One event of the host: the command word is checked first (R91), then `run` gives the command's effect; a reset
resets; with no event the block does nothing of its own (R12). -/
def stepWith (run : Instr → State → Host.Outcome State Fault Refusal) (s : State) :
    Host.Outcome State Fault Refusal :=
  match s.pending with
  | [] => .next s
  | .reset :: _ => .next s.takeEvent.assertReset
  | .command t :: _ =>
    match decode t with
    | .ok i => run i s.takeEvent
    | .error e => .refused (refusalOf t.cmd e)

/-- The host issues the instruction with these table bits as its next event, before any other. -/
def State.issueTableWord (s : State) (nbits w : Nat) : State :=
  { s with pending := .command (tableTransaction nbits w) :: s.pending }

end Sys2Proof.Machine
end

