-- ==== Sys2Proof/Machine/Construct.lean ====
section
/-! DEFINITION. The construction commands `CREATE` and `FROMRAW` (R76, R77). Neither reads W. -/

namespace Sys2Proof.Machine

/-- `CREATE fx, fy, fz, fw` (R76): each input is clamped and quantized on its own. -/
def execCreate (fx fy fz fw : Word) (s : State) : Host.Outcome State Fault Refusal :=
  .next (s.construct (pack (q10 fx) (q10 fy) (q10 fz) (q2 fw)))

/-- `FROMRAW r` (R77): the word is taken verbatim. -/
def execFromraw (r : Word) (s : State) : Host.Outcome State Fault Refusal :=
  .next (s.construct r)

end Sys2Proof.Machine
end

