-- ==== Sys2Proof/Machine/Export.lean ====
section
/-! DEFINITION. The raw export command `RAWVAL` (R88). -/

namespace Sys2Proof.Machine

/-- `RAWVAL` (R88): the response is W, no bit changed; W is not written. -/
def execRawval (s : State) : Host.Outcome State Fault Refusal :=
  .next (s.noteRead.respond s.w)

end Sys2Proof.Machine
end

