-- ==== Sys2Proof/Machine/Read.lean ====
section
/-! DEFINITION. The component read commands `GETX`, `GETY`, `GETZ`, `GETW` (R78 to R81). -/

namespace Sys2Proof.Machine

/-- A component reader: the field's level over its maximum level, as binary32; W is not written. Where W is
undefined it reads "whatever W holds" (R105) and the mark is raised (R94, log 2). -/
def readComponent (f : Field) (s : State) : Host.Outcome State Fault Refusal :=
  .next (s.noteRead.respond (normalize (fieldLevel s.w f) (maxLevel f)))

/-- `GETX` (R78). -/
def execGetx (s : State) : Host.Outcome State Fault Refusal := readComponent .x s

/-- `GETY` (R79). -/
def execGety (s : State) : Host.Outcome State Fault Refusal := readComponent .y s

/-- `GETZ` (R80). -/
def execGetz (s : State) : Host.Outcome State Fault Refusal := readComponent .z s

/-- `GETW` (R81). -/
def execGetw (s : State) : Host.Outcome State Fault Refusal := readComponent .w s

end Sys2Proof.Machine
end

