-- ==== Sys2Proof/Machine/Write.lean ====
section
/-! DEFINITION. The component write commands `SETX`, `SETY`, `SETZ`, `SETW` and `SETXYZ` (R82 to R86). -/

namespace Sys2Proof.Machine

/-- A component writer: the field takes the level, every other bit of W is kept (R68). Where W is undefined the
other fields keep "whatever W holds" (R105), and the mark is raised (R94, log 2). -/
def writeComponent (f : Field) (k : Word) (s : State) : Host.Outcome State Fault Refusal :=
  .next (s.noteRead.store (insertField s.w f k))

/-- `SETX f` (R82). -/
def execSetx (f : Word) (s : State) : Host.Outcome State Fault Refusal :=
  writeComponent .x ((q10 f).setWidth 32) s

/-- `SETY f` (R83). -/
def execSety (f : Word) (s : State) : Host.Outcome State Fault Refusal :=
  writeComponent .y ((q10 f).setWidth 32) s

/-- `SETZ f` (R84). -/
def execSetz (f : Word) (s : State) : Host.Outcome State Fault Refusal :=
  writeComponent .z ((q10 f).setWidth 32) s

/-- `SETW f` (R85). -/
def execSetw (f : Word) (s : State) : Host.Outcome State Fault Refusal :=
  writeComponent .w ((q2 f).setWidth 32) s

/-- `SETXYZ fx, fy, fz` (R86): the three fields change together (R32), `w` is kept. -/
def execSetxyz (fx fy fz : Word) (s : State) : Host.Outcome State Fault Refusal :=
  .next (s.noteRead.store (insertXYZ s.w (q10 fx) (q10 fy) (q10 fz)))

end Sys2Proof.Machine
end

