-- ==== Sys2Proof/Machine/Dispatch.lean ====
section
/-! DEFINITION. One arm per command (R46), each one direct call of its meaning. -/

namespace Sys2Proof.Machine

def exec (i : Instr) (s : State) : Host.Outcome State Fault Refusal :=
  match i with
  | .create fx fy fz fw => Sys2Proof.Machine.execCreate fx fy fz fw s
  | .fromraw r => Sys2Proof.Machine.execFromraw r s
  | .getx => Sys2Proof.Machine.execGetx s
  | .gety => Sys2Proof.Machine.execGety s
  | .getz => Sys2Proof.Machine.execGetz s
  | .getw => Sys2Proof.Machine.execGetw s
  | .setx f => Sys2Proof.Machine.execSetx f s
  | .sety f => Sys2Proof.Machine.execSety f s
  | .setz f => Sys2Proof.Machine.execSetz f s
  | .setw f => Sys2Proof.Machine.execSetw f s
  | .setxyz fx fy fz => Sys2Proof.Machine.execSetxyz fx fy fz s
  | .rawval => Sys2Proof.Machine.execRawval s

end Sys2Proof.Machine
end

