-- ==== Sys2Proof/Machine/Step.lean ====
section
/-! DEFINITION. One step of the block: it takes the host's next event and does all of it (R32, R34). -/

namespace Sys2Proof.Machine

/-- One step (R12, R34, R91, R93): a command is decoded and executed whole; a reserved word is refused by name. -/
def step (s : State) : Host.Outcome State Fault Refusal := stepWith exec s

/-- `s` with the instruction of the table bits issued by the host as its next event. The block fetches nothing
(R23): the host's next transaction is where the next instruction comes from (log 3). -/
def State.withFetchWord (s : State) (nbits w : Nat) : State := s.issueTableWord nbits w

end Sys2Proof.Machine
end

