-- ==== Sys2Proof/Machine/Assembly.lean ====
section
/-! DEFINITION. The written form of commands: literals (R51), one assembly line (R50, R52) and the listing (R53). Text is a
list of characters. What the rules leave open of the text's form is in log 14. -/

namespace Sys2Proof.Machine

/-- Why a line does not assemble. -/
inductive AsmError where
  | unknownMnemonic
  | operandCount
  | badOperand
  deriving DecidableEq, Repr

/-- The value of a decimal digit. -/
def decDigit (c : Char) : Option Nat :=
  if 48 ≤ c.toNat && c.toNat ≤ 57 then some (c.toNat - 48) else none

/-- The value of a hexadecimal digit, of either case. -/
def hexDigit (c : Char) : Option Nat :=
  if 48 ≤ c.toNat && c.toNat ≤ 57 then some (c.toNat - 48)
  else if 65 ≤ c.toNat && c.toNat ≤ 70 then some (c.toNat - 55)
  else if 97 ≤ c.toNat && c.toNat ≤ 102 then some (c.toNat - 87)
  else none

/-- The number that a list of digits writes, after `acc`; none where a character is no digit. -/
def digitsValue (digit : Char → Option Nat) (base : Nat) : Nat → List Char → Option Nat
  | acc, [] => some acc
  | acc, c :: cs =>
    match digit c with
    | some v => digitsValue digit base (acc * base + v) cs
    | none => none

/-- A 32-bit hexadecimal word, `0x` and eight digits (R51). -/
def parseHexWord : List Char → Option Word
  | '0' :: 'x' :: ds =>
    if ds.length = 8 then (digitsValue hexDigit 16 0 ds).map (BitVec.ofNat 32) else none
  | _ => none

/-- The binary32 datum of the decimal `±digits / 10^places`: `RNE32` of its value (R9, R51); a zero value is +0.0. -/
def decimalWord (negative : Bool) (digits places : Nat) : Word :=
  if negative && digits != 0 then 0x80000000 ||| rne32 digits (10 ^ places)
  else rne32 digits (10 ^ places)

/-- A decimal without its sign: digits, and after a point more digits. -/
def parseDecimal (negative : Bool) (cs : List Char) : Option Word :=
  let whole := cs.takeWhile (· != '.')
  let fraction := (cs.dropWhile (· != '.')).drop 1
  if whole.isEmpty then none
  else (digitsValue decDigit 10 0 (whole ++ fraction)).map fun n => decimalWord negative n fraction.length

/-- A float operand (R51): a hexadecimal word, `+inf`, `-inf`, `-0.0`, `nan`, or a decimal. -/
def parseFloat (cs : List Char) : Option Word :=
  if cs = ['+', 'i', 'n', 'f'] then some 0x7F800000
  else if cs = ['-', 'i', 'n', 'f'] then some 0xFF800000
  else if cs = ['-', '0', '.', '0'] then some 0x80000000
  else if cs = ['n', 'a', 'n'] then some 0x7FC00000
  else match cs with
    | '0' :: 'x' :: _ => parseHexWord cs
    | '-' :: ds => parseDecimal true ds
    | _ => parseDecimal false cs

/-- The float operand, or the error. -/
def floatOperand (cs : List Char) : Except AsmError Word :=
  match parseFloat cs with
  | some v => .ok v
  | none => .error .badOperand

/-- The raw operand, a hexadecimal word (R51), or the error. -/
def rawOperand (cs : List Char) : Except AsmError Word :=
  match parseHexWord cs with
  | some v => .ok v
  | none => .error .badOperand

/-- A line of text without blanks at its ends. -/
def trimBlanks (cs : List Char) : List Char :=
  ((cs.dropWhile (· == ' ')).reverse.dropWhile (· == ' ')).reverse

/-- The parts of a text between commas; there is at least one. -/
def splitCommas : List Char → List (List Char)
  | [] => [[]]
  | c :: cs =>
    if c = ',' then [] :: splitCommas cs
    else match splitCommas cs with
      | [] => [[c]]
      | p :: ps => (c :: p) :: ps

/-- The mnemonic of a command, as the opcode map has it (R46). -/
def mnemonicOf : Instr → List Char
  | .create _ _ _ _ => ['C', 'R', 'E', 'A', 'T', 'E']
  | .fromraw _ => ['F', 'R', 'O', 'M', 'R', 'A', 'W']
  | .getx => ['G', 'E', 'T', 'X']
  | .gety => ['G', 'E', 'T', 'Y']
  | .getz => ['G', 'E', 'T', 'Z']
  | .getw => ['G', 'E', 'T', 'W']
  | .setx _ => ['S', 'E', 'T', 'X']
  | .sety _ => ['S', 'E', 'T', 'Y']
  | .setz _ => ['S', 'E', 'T', 'Z']
  | .setw _ => ['S', 'E', 'T', 'W']
  | .setxyz _ _ _ => ['S', 'E', 'T', 'X', 'Y', 'Z']
  | .rawval => ['R', 'A', 'W', 'V', 'A', 'L']

/-- A command without operands. -/
def noOperands (i : Instr) (ops : List (List Char)) : Except AsmError Instr :=
  if ops.isEmpty then .ok i else .error .operandCount

/-- A command with one float operand. -/
def oneFloat (mk : Word → Instr) : List (List Char) → Except AsmError Instr
  | [a] => do return mk (← floatOperand a)
  | _ => .error .operandCount

/-- The command of a mnemonic and its operands (R50). -/
def assembleCommand (m : List Char) (ops : List (List Char)) : Except AsmError Instr :=
  if m = mnemonicOf (.create 0 0 0 0) then
    match ops with
    | [a, b, c, d] => do
      return .create (← floatOperand a) (← floatOperand b) (← floatOperand c) (← floatOperand d)
    | _ => .error .operandCount
  else if m = mnemonicOf (.fromraw 0) then
    match ops with
    | [a] => do return .fromraw (← rawOperand a)
    | _ => .error .operandCount
  else if m = mnemonicOf .getx then noOperands .getx ops
  else if m = mnemonicOf .gety then noOperands .gety ops
  else if m = mnemonicOf .getz then noOperands .getz ops
  else if m = mnemonicOf .getw then noOperands .getw ops
  else if m = mnemonicOf (.setx 0) then oneFloat .setx ops
  else if m = mnemonicOf (.sety 0) then oneFloat .sety ops
  else if m = mnemonicOf (.setz 0) then oneFloat .setz ops
  else if m = mnemonicOf (.setw 0) then oneFloat .setw ops
  else if m = mnemonicOf (.setxyz 0 0 0) then
    match ops with
    | [a, b, c] => do return .setxyz (← floatOperand a) (← floatOperand b) (← floatOperand c)
    | _ => .error .operandCount
  else if m = mnemonicOf .rawval then noOperands .rawval ops
  else .error .unknownMnemonic

/-- One line of assembly (R50): a comment starts with `;`; a line without a command gives none; a command assembles
to its transaction, with zero in every ignored operand word. -/
def assembleLine (line : List Char) : Except AsmError (Option Transaction) :=
  let text := trimBlanks (line.takeWhile (· != ';'))
  if text.isEmpty then .ok none
  else
    let m := text.takeWhile (· != ' ')
    let args := trimBlanks (text.dropWhile (· != ' '))
    let ops := if args.isEmpty then [] else (splitCommas args).map trimBlanks
    match assembleCommand m ops with
    | .ok i => .ok (some (encode i))
    | .error e => .error e

/-- The hexadecimal digit of a number below 16. -/
def hexChar (n : Nat) : Char := if n < 10 then Char.ofNat (48 + n) else Char.ofNat (55 + n)

/-- The eight hexadecimal digits of a word, as a listing writes it (R53). -/
def hexWordText (v : Word) : List Char :=
  [28, 24, 20, 16, 12, 8, 4, 0].map fun i => hexChar (v.extractLsb' i 4).toNat

/-- A word as a literal (R51). -/
def literalText (v : Word) : List Char := '0' :: 'x' :: hexWordText v

/-- Texts joined by a separator. -/
def joinText (sep : List Char) : List (List Char) → List Char
  | [] => []
  | [a] => a
  | a :: rest => a ++ sep ++ joinText sep rest

/-- The operands of a command in the order of R43, as the assembly text writes them. -/
def operandsText : Instr → List (List Char)
  | .create fx fy fz fw => [literalText fx, literalText fy, literalText fz, literalText fw]
  | .fromraw r => [literalText r]
  | .getx => []
  | .gety => []
  | .getz => []
  | .getw => []
  | .setx f => [literalText f]
  | .sety f => [literalText f]
  | .setz f => [literalText f]
  | .setw f => [literalText f]
  | .setxyz fx fy fz => [literalText fx, literalText fy, literalText fz]
  | .rawval => []

/-- The assembly text of a command (R50), its operands written as hexadecimal words (R51). -/
def asmText (i : Instr) : List Char :=
  match operandsText i with
  | [] => mnemonicOf i
  | ops => mnemonicOf i ++ ' ' :: joinText [',', ' '] ops

/-- The listing of a transaction (R53): its five words in hexadecimal, in transaction order, then the assembly text,
or `(reserved)` where the command word names no command. -/
def listing (t : Transaction) : List Char :=
  joinText [' '] ([t.cmd, t.opa, t.opb, t.opc, t.opd].map hexWordText) ++ [' ', ' '] ++
    match decode t with
    | .ok i => asmText i
    | .error _ => ['(', 'r', 'e', 's', 'e', 'r', 'v', 'e', 'd', ')']

/-- The listing with the response, where there is one, after `->` (R53). -/
def listingWithResponse (t : Transaction) (rsp : Option Word) : List Char :=
  match rsp with
  | none => listing t
  | some v => listing t ++ [' ', ' ', '-', '>', ' '] ++ hexWordText v

end Sys2Proof.Machine
end

