-- ==== Sys2Proof/Machine/System.lean ====
section
/-! DEFINITION. Several blocks (R102): each has its own state, and they share none. -/

namespace Sys2Proof.Machine

/-- Block `i` of a system of `n` blocks takes its host's next event; the other blocks do nothing (R15, R102).
Where the command of block `i` is refused, the whole system step ends in that refusal, with no state after it: the spec
gives a refusal only for one block's step and run (R93), so this is the model's choice (DESIGN CHOICE, log 18, safe). -/
def stepBlock {n : Nat} (blocks : Vector State n) (i : Fin n) :
    Host.Outcome (Vector State n) Fault Refusal :=
  match step blocks[i] with
  | .next t => .next (blocks.set i t)
  | .fault r => .fault r
  | .refused r => .refused r

end Sys2Proof.Machine
end

