-- ==== Sys2Proof/Machine/Operands.lean ====
section
/-! DEFINITION. What each command moves (R31, R43): its operand words, taken whole (R44), whether it reads W, whether it
constructs W, and whether it has a response. There are no registers, immediates or addressing modes (R41, R99). -/

namespace Sys2Proof.Machine

/-- The operand words that a command reads, in the order `OPA`, `OPB`, `OPC`, `OPD` (R31, R43). -/
def operandWords : Instr → List Word
  | .create fx fy fz fw => [fx, fy, fz, fw]
  | .fromraw r => [r]
  | .getx => []
  | .gety => []
  | .getz => []
  | .getw => []
  | .setx f => [f]
  | .sety f => [f]
  | .setz f => [f]
  | .setw f => [f]
  | .setxyz fx fy fz => [fx, fy, fz]
  | .rawval => []

/-- Whether a command reads W (R31, R94). -/
def readsW : Instr → Bool
  | .create _ _ _ _ => false
  | .fromraw _ => false
  | .getx => true
  | .gety => true
  | .getz => true
  | .getw => true
  | .setx _ => true
  | .sety _ => true
  | .setz _ => true
  | .setw _ => true
  | .setxyz _ _ _ => true
  | .rawval => true

/-- Whether a command gives W a whole new value and so defines it (R105). -/
def definesW : Instr → Bool
  | .create _ _ _ _ => true
  | .fromraw _ => true
  | .getx => false
  | .gety => false
  | .getz => false
  | .getw => false
  | .setx _ => false
  | .sety _ => false
  | .setz _ => false
  | .setw _ => false
  | .setxyz _ _ _ => false
  | .rawval => false

/-- Whether a command has a response word (R31, R45). -/
def hasResponse : Instr → Bool
  | .create _ _ _ _ => false
  | .fromraw _ => false
  | .getx => true
  | .gety => true
  | .getz => true
  | .getw => true
  | .setx _ => false
  | .sety _ => false
  | .setz _ => false
  | .setw _ => false
  | .setxyz _ _ _ => false
  | .rawval => true

/-- Whether a command writes the field (R17 to R20, R31). -/
def writesField : Instr → Field → Bool
  | .create _ _ _ _, _ => true
  | .fromraw _, _ => true
  | .getx, _ => false
  | .gety, _ => false
  | .getz, _ => false
  | .getw, _ => false
  | .setx _, f => f == .x
  | .sety _, f => f == .y
  | .setz _, f => f == .z
  | .setw _, f => f == .w
  | .setxyz _ _ _, f => f != .w
  | .rawval, _ => false

end Sys2Proof.Machine
end

