-- ==== Sys2Proof/Machine/Checked.lean ====
section
/-! DEFINITION. The step with the model-only check of R91 and R94: a command that reads W while W is undefined faults.
The hardware has no such check (R105) and `step` has none; a claim that must not rest on the reset word is stated
over `checkedStep` or over runs that stay unmarked (log 2). -/

namespace Sys2Proof.Machine

/-- `if W is undefined then fault(UndefinedW)`, then the command (R78 to R88, R94, R95). -/
def checkedExec (i : Instr) (s : State) : Host.Outcome State Fault Refusal :=
  if readsW i && !s.wDefined then .fault (.undefinedW (opcode i)) else exec i s

/-- The step with the checks in the order of R91: the command word, then definedness, then the command. -/
def checkedStep (s : State) : Host.Outcome State Fault Refusal := stepWith checkedExec s

end Sys2Proof.Machine
end

