-- ==== Sys2Proof/Machine/Run.lean ====
section
/-! DEFINITION. Runs. An outcome that stops a step still leaves the block in a state (R93, R94; programs P5, P6 and P10 of
the test vectors): `settle` gives it. That a run goes on after a fault is the model's choice (DESIGN CHOICE, log 17).
`observe` is what the host sees of a run (R13). -/

namespace Sys2Proof.Machine

/-- The state after an outcome of a step at `s`. After a refusal the word W is unchanged, there is no response and
the sticky mark `refused` is true (R48, R93); after a fault likewise with the mark `faulted` (R94). The event is
taken, and any later command still runs: after a refusal the spec says so (program P6); after a fault R10 says that
the fault "ends the run" while R94 speaks of a sticky mark, and going on is the model's choice (DESIGN CHOICE, log 17,
safe: the mark stays). -/
def settle (s : State) : Host.Outcome State Fault Refusal → State
  | .next t => t
  | .fault _ => { s.takeEvent with rsp := none }.markFaulted
  | .refused _ => { s.takeEvent with rsp := none }.markRefused

/-- The state after one step, whatever its outcome. -/
def advance (s : State) : State := settle s (step s)

/-- The state after one checked step, whatever its outcome, a fault included (DESIGN CHOICE, log 17). -/
def checkedAdvance (s : State) : State := settle s (checkedStep s)

/-- The state after `n` advances; with `checkedAdvance` it goes on after a fault, with the mark kept (DESIGN CHOICE,
log 17). -/
def runWith (adv : State → State) : Nat → State → State
  | 0, s => s
  | n + 1, s => runWith adv n (adv s)

/-- The response words of `n` advances, in order. An advance with no event of the host gives nothing, and nothing
comes after it. -/
def observeWith (adv : State → State) : Nat → State → List Word
  | 0, _ => []
  | n + 1, s =>
    match s.pending with
    | [] => []
    | _ :: _ => (adv s).rsp.toList ++ observeWith adv n (adv s)

/-- The state after `n` steps. -/
def runFor (n : Nat) (s : State) : State := runWith advance n s

/-- The responses of `n` steps: what the host can observe of the block (R13). -/
def observe (n : Nat) (s : State) : List Word := observeWith advance n s

/-- The state after `n` checked steps, the steps after a fault among them (DESIGN CHOICE, log 17). -/
def checkedRunFor (n : Nat) (s : State) : State := runWith checkedAdvance n s

/-- The responses of `n` checked steps, those after a fault among them (DESIGN CHOICE, log 17). -/
def checkedObserve (n : Nat) (s : State) : List Word := observeWith checkedAdvance n s

/-- Commands executed one after the other, each on the state the one before it left (R34), stopping at the first
stop. -/
def execAll : List Instr → State → Host.Outcome State Fault Refusal
  | [], s => .next s
  | i :: is, s =>
    match exec i s with
    | .next t => execAll is t
    | .fault r => .fault r
    | .refused r => .refused r

end Sys2Proof.Machine
end

