-- ==== Sys2Proof/Safety.lean ====
section
/-! DEFINITION. What counts as a safe run: no read of an undefined W and no reserved command word (R13, R93, R94), the
host's boot rule that guarantees it (R108), and the invariant of every step. -/

namespace Sys2Proof.Machine

/-- The real value of a finite datum that is not negative (R9), as a rational number: its units over 2^149. -/
def f32rat (b : Word) : Rat := (magUnits b : Rat) / (unitsOfOne : Rat)

/-- No mark is set: the run neither faulted nor was refused (R13, R93, R94). -/
abbrev Clean (s : State) : Prop := s.faulted = false ∧ s.refused = false

/-- The host's boot rule (R108) on its events, with W defined or not at the start: every command word names a
command, and a command that reads W comes only after a `CREATE` or `FROMRAW` since the last reset. -/
def followsBootRule : Bool → List HostEvent → Bool
  | _, [] => true
  | _, .reset :: es => followsBootRule false es
  | d, .command t :: es =>
    match decode t with
    | .ok i => (d || !readsW i) && followsBootRule (d || definesW i) es
    | .error _ => false

/-- No response comes from an undefined W without the mark: while W is undefined and the run is not marked
`faulted`, there is no response (R45, R94). -/
abbrev ResponseInv (s : State) : Prop := s.wDefined = true ∨ s.faulted = true ∨ s.rsp = none

end Sys2Proof.Machine
end

