-- ==== Sys2Proof/Certificates/Slice0/Obligations.lean ====
section
/-! DEFINITION. The statements for the provers. Each docstring names the rule of the spec that the statement formalises. -/

open Sys2Proof Sys2Proof.Machine

/-! ## Commands -/

/-- R76, `CREATE`: its command word, its effect in every state (W defined or not), the fields of the new W, and the
worked example. -/
def Obligations.CreatePacksFourLevels : Prop :=
  (∀ t : Transaction, t.cmd = 0x00000001 → decode t = .ok (.create t.opa t.opb t.opc t.opd)) ∧
  (∀ (fx fy fz fw : Word) (s : State),
    exec (.create fx fy fz fw) s =
        .next { s with w := pack (q10 fx) (q10 fy) (q10 fz) (q2 fw), wDefined := true, rsp := none } ∧
      checkedExec (.create fx fy fz fw) s = exec (.create fx fy fz fw) s ∧
      unpack (pack (q10 fx) (q10 fy) (q10 fz) (q2 fw)) = (q10 fx, q10 fy, q10 fz, q2 fw)) ∧
  pack (q10 0x3EE353F8) (q10 0x3F0E147B) (q10 0x3F2A7EFA) (q2 0x3E4CCCCD) = 0x6A98E1C6

/-- R77, `FROMRAW`: its command word, its effect in every state, and the worked example's fields. -/
def Obligations.FromrawLoadsWordVerbatim : Prop :=
  (∀ t : Transaction, t.cmd = 0x00000002 → decode t = .ok (.fromraw t.opa)) ∧
  (∀ (r : Word) (s : State),
    exec (.fromraw r) s = .next { s with w := r, wDefined := true, rsp := none } ∧
      checkedExec (.fromraw r) s = exec (.fromraw r) s) ∧
  unpack 0x12345678 = (632, 277, 291, 0)

/-- R78, `GETX`: its command word; with W defined, the response is the level of bits 9:0 over 1023 and nothing else
changes; with W undefined, the checked command faults; level 0 gives +0.0 and level 1023 gives 1.0; the worked
example, on a defined W. -/
def Obligations.GetxReturnsXComponent : Prop :=
  (∀ t : Transaction, t.cmd = 0x00000003 → decode t = .ok .getx) ∧
  (∀ s : State, s.wDefined = true →
    exec .getx s = .next { s with rsp := some (normalize (s.w.extractLsb' 0 10).toNat 1023) } ∧
      checkedExec .getx s = exec .getx s) ∧
  (∀ s : State, s.wDefined = false → checkedExec .getx s = .fault (.undefinedW 0x3)) ∧
  normalize 0 1023 = 0x00000000 ∧ normalize 1023 1023 = 0x3F800000 ∧
  (∀ s : State, s.wDefined = true → s.w = 0x6A98E1C6 →
    ∃ t, exec .getx s = .next t ∧ t.rsp = some 0x3EE338CE ∧ t.w = s.w)

/-- R79, `GETY`, likewise for bits 19:10, the worked example on a defined W. -/
def Obligations.GetyReturnsYComponent : Prop :=
  (∀ t : Transaction, t.cmd = 0x00000004 → decode t = .ok .gety) ∧
  (∀ s : State, s.wDefined = true →
    exec .gety s = .next { s with rsp := some (normalize (s.w.extractLsb' 10 10).toNat 1023) } ∧
      checkedExec .gety s = exec .gety s) ∧
  (∀ s : State, s.wDefined = false → checkedExec .gety s = .fault (.undefinedW 0x4)) ∧
  normalize 0 1023 = 0x00000000 ∧ normalize 1023 1023 = 0x3F800000 ∧
  (∀ s : State, s.wDefined = true → s.w = 0x6A98E1C6 →
    ∃ t, exec .gety s = .next t ∧ t.rsp = some 0x3F0E2389 ∧ t.w = s.w)

/-- R80, `GETZ`, likewise for bits 29:20, the worked example on a defined W. -/
def Obligations.GetzReturnsZComponent : Prop :=
  (∀ t : Transaction, t.cmd = 0x00000005 → decode t = .ok .getz) ∧
  (∀ s : State, s.wDefined = true →
    exec .getz s = .next { s with rsp := some (normalize (s.w.extractLsb' 20 10).toNat 1023) } ∧
      checkedExec .getz s = exec .getz s) ∧
  (∀ s : State, s.wDefined = false → checkedExec .getz s = .fault (.undefinedW 0x5)) ∧
  normalize 0 1023 = 0x00000000 ∧ normalize 1023 1023 = 0x3F800000 ∧
  (∀ s : State, s.wDefined = true → s.w = 0x6A98E1C6 →
    ∃ t, exec .getz s = .next t ∧ t.rsp = some 0x3F2A6A9B ∧ t.w = s.w)

/-- R81, `GETW`: likewise for bits 31:30 over 3; only four results are possible; the worked example, on a
defined W. -/
def Obligations.GetwReturnsOneOfFour : Prop :=
  (∀ t : Transaction, t.cmd = 0x00000006 → decode t = .ok .getw) ∧
  (∀ s : State, s.wDefined = true →
    exec .getw s = .next { s with rsp := some (normalize (s.w.extractLsb' 30 2).toNat 3) } ∧
      checkedExec .getw s = exec .getw s) ∧
  (∀ s : State, s.wDefined = false → checkedExec .getw s = .fault (.undefinedW 0x6)) ∧
  (∀ s t : State, exec .getw s = .next t →
    (s.w.extractLsb' 30 2 = 0 ∧ t.rsp = some 0x00000000) ∨
    (s.w.extractLsb' 30 2 = 1 ∧ t.rsp = some 0x3EAAAAAB) ∨
    (s.w.extractLsb' 30 2 = 2 ∧ t.rsp = some 0x3F2AAAAB) ∨
    (s.w.extractLsb' 30 2 = 3 ∧ t.rsp = some 0x3F800000)) ∧
  (∀ s : State, s.wDefined = true → s.w = 0x6A98E1C6 →
    ∃ t, exec .getw s = .next t ∧ t.rsp = some 0x3EAAAAAB ∧ t.w = s.w)

/-- R82, `SETX`: its command word; with W defined, `W <- (W & 0xFFFFFC00) | q10(OPA)` and no response; with W
undefined, the checked command faults; bits 31:10 are kept and bits 9:0 are the level; the worked example, on a
defined W. -/
def Obligations.SetxWritesOnlyX : Prop :=
  (∀ t : Transaction, t.cmd = 0x00000007 → decode t = .ok (.setx t.opa)) ∧
  (∀ (f : Word) (s : State), s.wDefined = true →
    exec (.setx f) s =
        .next { s with w := (s.w &&& 0xFFFFFC00) ||| (q10 f).setWidth 32, rsp := none } ∧
      checkedExec (.setx f) s = exec (.setx f) s) ∧
  (∀ (f : Word) (s : State), s.wDefined = false → checkedExec (.setx f) s = .fault (.undefinedW 0x7)) ∧
  (∀ (f : Word) (s t : State), exec (.setx f) s = .next t →
    t.w.extractLsb' 0 10 = q10 f ∧ t.w.extractLsb' 10 22 = s.w.extractLsb' 10 22) ∧
  (∀ s : State, s.wDefined = true → s.w = 0xFFFFFFFF →
    ∃ t, exec (.setx 0x3F000000) s = .next t ∧ t.w = 0xFFFFFE00)

/-- R83, `SETY`, likewise for bits 19:10, the worked example on a defined W. -/
def Obligations.SetyWritesOnlyY : Prop :=
  (∀ t : Transaction, t.cmd = 0x00000008 → decode t = .ok (.sety t.opa)) ∧
  (∀ (f : Word) (s : State), s.wDefined = true →
    exec (.sety f) s =
        .next { s with w := (s.w &&& 0xFFF003FF) ||| ((q10 f).setWidth 32 <<< 10), rsp := none } ∧
      checkedExec (.sety f) s = exec (.sety f) s) ∧
  (∀ (f : Word) (s : State), s.wDefined = false → checkedExec (.sety f) s = .fault (.undefinedW 0x8)) ∧
  (∀ (f : Word) (s t : State), exec (.sety f) s = .next t →
    t.w.extractLsb' 10 10 = q10 f ∧ t.w.extractLsb' 20 12 = s.w.extractLsb' 20 12 ∧
      t.w.extractLsb' 0 10 = s.w.extractLsb' 0 10) ∧
  (∀ s : State, s.wDefined = true → s.w = 0x00000000 →
    ∃ t, exec (.sety 0x3E800000) s = .next t ∧ t.w = 0x00040000)

/-- R84, `SETZ`, likewise for bits 29:20, the worked example on a defined W. -/
def Obligations.SetzWritesOnlyZ : Prop :=
  (∀ t : Transaction, t.cmd = 0x00000009 → decode t = .ok (.setz t.opa)) ∧
  (∀ (f : Word) (s : State), s.wDefined = true →
    exec (.setz f) s =
        .next { s with w := (s.w &&& 0xC00FFFFF) ||| ((q10 f).setWidth 32 <<< 20), rsp := none } ∧
      checkedExec (.setz f) s = exec (.setz f) s) ∧
  (∀ (f : Word) (s : State), s.wDefined = false → checkedExec (.setz f) s = .fault (.undefinedW 0x9)) ∧
  (∀ (f : Word) (s t : State), exec (.setz f) s = .next t →
    t.w.extractLsb' 20 10 = q10 f ∧ t.w.extractLsb' 30 2 = s.w.extractLsb' 30 2 ∧
      t.w.extractLsb' 0 20 = s.w.extractLsb' 0 20) ∧
  (∀ s : State, s.wDefined = true → s.w = 0x00000000 →
    ∃ t, exec (.setz 0x7F800000) s = .next t ∧ t.w = 0x3FF00000)

/-- R85, `SETW`, likewise for bits 31:30 and the 2-bit quantizer; the worked example with the four readers, on a
defined W. -/
def Obligations.SetwWritesOnlyW : Prop :=
  (∀ t : Transaction, t.cmd = 0x0000000A → decode t = .ok (.setw t.opa)) ∧
  (∀ (f : Word) (s : State), s.wDefined = true →
    exec (.setw f) s =
        .next { s with w := (s.w &&& 0x3FFFFFFF) ||| ((q2 f).setWidth 32 <<< 30), rsp := none } ∧
      checkedExec (.setw f) s = exec (.setw f) s) ∧
  (∀ (f : Word) (s : State), s.wDefined = false → checkedExec (.setw f) s = .fault (.undefinedW 0xA)) ∧
  (∀ (f : Word) (s t : State), exec (.setw f) s = .next t →
    t.w.extractLsb' 30 2 = q2 f ∧ t.w.extractLsb' 0 30 = s.w.extractLsb' 0 30) ∧
  (∀ s : State, s.wDefined = true → s.w = 0x00000000 → ∃ t tx ty tz tw,
    exec (.setw 0x3EAA7EFA) s = .next t ∧ t.w = 0x40000000 ∧
      exec .getx t = .next tx ∧ tx.rsp = some 0x00000000 ∧
      exec .gety tx = .next ty ∧ ty.rsp = some 0x00000000 ∧
      exec .getz ty = .next tz ∧ tz.rsp = some 0x00000000 ∧
      exec .getw tz = .next tw ∧ tw.rsp = some 0x3EAAAAAB)

/-- R86, `SETXYZ`: its command word; with W defined, `W <- (W & 0xC0000000) | pack(x, y, z, 0)` and no response; with W
undefined, the checked command faults; bits 31:30 are kept and the three fields are the levels; the worked example,
on a defined W. -/
def Obligations.SetxyzWritesThreeFields : Prop :=
  (∀ t : Transaction, t.cmd = 0x0000000B → decode t = .ok (.setxyz t.opa t.opb t.opc)) ∧
  (∀ (fx fy fz : Word) (s : State), s.wDefined = true →
    exec (.setxyz fx fy fz) s =
        .next { s with w := (s.w &&& 0xC0000000) ||| pack (q10 fx) (q10 fy) (q10 fz) 0, rsp := none } ∧
      checkedExec (.setxyz fx fy fz) s = exec (.setxyz fx fy fz) s) ∧
  (∀ (fx fy fz : Word) (s : State), s.wDefined = false →
    checkedExec (.setxyz fx fy fz) s = .fault (.undefinedW 0xB)) ∧
  (∀ (fx fy fz : Word) (s t : State), exec (.setxyz fx fy fz) s = .next t →
    unpack t.w = (q10 fx, q10 fy, q10 fz, s.w.extractLsb' 30 2)) ∧
  (∀ s : State, s.wDefined = true → s.w = 0xFFFFFFFF →
    ∃ t, exec (.setxyz 0xBF800000 0x40000000 0x7FC00000) s = .next t ∧ t.w = 0xC00FFC00)

/-- R87: on a defined W, `SETXYZ a, b, c` and the three single writes, in any order, lead to the same state. -/
def Obligations.SetxyzEqualsThreeSingleWrites : Prop :=
  ∀ (a b c : Word) (s : State) (is : List Instr),
    s.wDefined = true → is.Perm [.setx a, .sety b, .setz c] →
    (∃ t, execAll is s = .next t) ∧ execAll is s = exec (.setxyz a b c) s

/-- R88, `RAWVAL`: its command word; with W defined, the response is W and nothing else changes; with W undefined, the
checked command faults; after `FROMRAW r`, in any state, it returns `r`; the worked example's word. -/
def Obligations.RawvalReturnsWord : Prop :=
  (∀ t : Transaction, t.cmd = 0x0000000C → decode t = .ok .rawval) ∧
  (∀ s : State, s.wDefined = true →
    exec .rawval s = .next { s with rsp := some s.w } ∧ checkedExec .rawval s = exec .rawval s) ∧
  (∀ s : State, s.wDefined = false → checkedExec .rawval s = .fault (.undefinedW 0xC)) ∧
  (∀ (r : Word) (s : State), ∃ t, execAll [.fromraw r, .rawval] s = .next t ∧ t.rsp = some r ∧ t.w = r) ∧
  (∀ s : State, ∃ t,
    execAll [.create 0x3EE353F8 0x3F0E147B 0x3F2A7EFA 0x3EAA7EFA, .rawval] s = .next t ∧
      t.rsp = some 0x6A98E1C6)

/-- What a command that reads W does while W is undefined: what it does on the same word when it is defined, with
the mark `faulted` raised and W still undefined. DESIGN CHOICE of the model, log 2: the spec's hardware "computes
from whatever W holds" (R94), and its model-only fault is the checked step's. -/
def Obligations.UndefinedWordRunsAndIsMarked : Prop :=
  ∀ (i : Instr) (s : State), readsW i = true → s.wDefined = false →
    ∃ t, exec i { s with wDefined := true } = .next t ∧
      exec i s = .next { t with wDefined := false, faulted := true }

/-- The frame of every command, from the table of R31 and R17 to R20: a command completes in every state; it keeps
every field that it does not write, the host's events, the mark `refused` and the reset counter; a command with a
response keeps W; `wDefined` changes only by `CREATE` and `FROMRAW`; `faulted` only by a read of an undefined W;
there is a response exactly where R45 gives one. On an undefined W, that a command which reads it completes at all,
keeps or writes the word held and responds is the model's choice (DESIGN CHOICE, log 2): R94 gives a fault and no
response there, which is the checked step's here. On a defined W, and for `CREATE` and `FROMRAW`, the frame rests on
the rules alone. -/
def Obligations.CommandFrame : Prop :=
  ∀ (i : Instr) (s : State), ∃ t, exec i s = .next t ∧
    (∀ f, writesField i f = false → fieldLevel t.w f = fieldLevel s.w f) ∧
    (hasResponse i = true → t.w = s.w) ∧
    t.wDefined = (s.wDefined || definesW i) ∧
    t.rsp.isSome = hasResponse i ∧
    t.pending = s.pending ∧
    t.faulted = (s.faulted || (readsW i && !s.wDefined)) ∧
    t.refused = s.refused ∧
    t.resets = s.resets

/-- R31: every command is idempotent: issued twice in a row it leaves the same state, with the same response, as
issued once. That a command that reads an undefined W completes at all, marked, is the model's choice (DESIGN CHOICE,
log 2); on a defined W, and for `CREATE` and `FROMRAW`, the statement rests on R31 alone. -/
def Obligations.CommandsAreIdempotent : Prop :=
  ∀ (i : Instr) (s : State), (∃ t, execAll [i] s = .next t) ∧ execAll [i, i] s = execAll [i] s

/-- R109: a write followed at once by the read of the same field returns the normalised level. On an undefined W, that
the write and the read complete and that the read responds is the model's choice (DESIGN CHOICE, log 2): R94 gives a
fault and no response there. On a defined W the statement rests on R109 alone. -/
def Obligations.ReadAfterWriteReturnsLevel : Prop :=
  ∀ (f : Word) (s : State),
    (∃ t, execAll [.setx f, .getx] s = .next t ∧ t.rsp = some (normalize (q10 f).toNat 1023)) ∧
    (∃ t, execAll [.sety f, .gety] s = .next t ∧ t.rsp = some (normalize (q10 f).toNat 1023)) ∧
    (∃ t, execAll [.setz f, .getz] s = .next t ∧ t.rsp = some (normalize (q10 f).toNat 1023)) ∧
    (∃ t, execAll [.setw f, .getw] s = .next t ∧ t.rsp = some (normalize (q2 f).toNat 3))

/-- Grid points are fixed points (R64), said of the machine: writing back into a field the word that its reader
returned leaves W as it was. On an undefined W, that the reader and the writer complete and that the reader responds
is the model's choice (DESIGN CHOICE, log 2): R94 gives a fault and no response there. -/
def Obligations.WriteBackKeepsWord : Prop :=
  ∀ s : State,
    (∃ t u v, exec .getx s = .next t ∧ t.rsp = some v ∧ exec (.setx v) t = .next u ∧ u.w = s.w) ∧
    (∃ t u v, exec .gety s = .next t ∧ t.rsp = some v ∧ exec (.sety v) t = .next u ∧ u.w = s.w) ∧
    (∃ t u v, exec .getz s = .next t ∧ t.rsp = some v ∧ exec (.setz v) t = .next u ∧ u.w = s.w) ∧
    (∃ t u v, exec .getw s = .next t ∧ t.rsp = some v ∧ exec (.setw v) t = .next u ∧ u.w = s.w)

/-- R39: the word that `RAWVAL` returns captures the block: after `FROMRAW` of it, on any block in any state, every
sequence of commands gives the same W and the same response as on the saved block. -/
def Obligations.SaveAndRestore : Prop :=
  ∀ (s s' : State) (is : List Instr), s.wDefined = true →
    ∃ saved restored a b r,
      exec .rawval s = .next saved ∧ saved.rsp = some r ∧
      exec (.fromraw r) s' = .next restored ∧
      execAll is saved = .next a ∧ execAll is restored = .next b ∧
      a.w = b.w ∧ a.wDefined = true ∧ b.wDefined = true ∧ (is ≠ [] → a.rsp = b.rsp)

/-! ## Steps, refusals and the checked step -/

/-- A step runs the decoded command: it takes the host's event and is `exec` of the command at the state left
(R34, R91); the checked step likewise. That the host's commands are a queue is the model's (DESIGN CHOICE, log 3). -/
def Obligations.StepRunsDecodedCommand : Prop :=
  ∀ (s : State) (t : Transaction) (es : List HostEvent) (i : Instr),
    s.pending = .command t :: es → decode t = .ok i →
    step s = exec i { s with pending := es } ∧ checkedStep s = checkedExec i { s with pending := es }

/-- With no event of the host the block does nothing of its own: nothing changes, the last response included
(R12, R110). That such a step exists is the model's (DESIGN CHOICE, log 3). -/
def Obligations.BlockStartsNothing : Prop :=
  ∀ s : State, s.pending = [] → step s = .next s

/-- R93 and the checks' order of R91: a reserved command word is refused whatever W holds, defined or not; W is not
changed, there is no response and the mark is true; no later step but a reset (a new run) clears the mark. -/
def Obligations.ReservedWordIsRefused : Prop :=
  (∀ (s : State) (t : Transaction) (es : List HostEvent), s.pending = .command t :: es →
    (t.cmd.extractLsb' 4 28 ≠ 0 →
      step s = .refused (.reservedBits t.cmd) ∧ checkedStep s = step s ∧
        advance s = { s with pending := es, rsp := none, refused := true }) ∧
    (t.cmd.extractLsb' 4 28 = 0 → t.cmd.extractLsb' 0 4 ∈ [0x0#4, 0xD#4, 0xE#4, 0xF#4] →
      step s = .refused (.reservedOpcode (t.cmd.extractLsb' 0 4)) ∧ checkedStep s = step s ∧
        advance s = { s with pending := es, rsp := none, refused := true })) ∧
  (∀ s : State, (∀ es, s.pending ≠ .reset :: es) → s.refused = true →
    (advance s).refused = true ∧ (checkedAdvance s).refused = true)

/-- R94: a command that reads W, issued while W is undefined, faults in the checked step; the mark is true, W stays
undefined and there is no response. The commands that read W are all but `CREATE` and `FROMRAW`. -/
def Obligations.UndefinedReadFaultsWhenChecked : Prop :=
  (∀ i : Instr, readsW i = true ↔ opcode i ≠ 0x1 ∧ opcode i ≠ 0x2) ∧
  ∀ (s : State) (t : Transaction) (es : List HostEvent) (i : Instr),
    s.pending = .command t :: es → decode t = .ok i → readsW i = true → s.wDefined = false →
    checkedStep s = .fault (.undefinedW t.op) ∧
      (checkedAdvance s).faulted = true ∧ (checkedAdvance s).word? = none ∧ (checkedAdvance s).rsp = none

/-- R95, the closed lists of reasons: what a step or a checked step can stop with, and when; there are no others: every
command in every state with W defined takes a normal step. The first clause, that `step` itself never faults, is the
model's choice (DESIGN CHOICE, log 2): R94 and R95 give the step the fault UndefinedW, which is the checked step's here. -/
def Obligations.OnlyListedReasonsStop : Prop :=
  (∀ (s : State) (r : Fault), step s ≠ .fault r) ∧
  (∀ (s : State) (r : Fault), checkedStep s = .fault r →
    ∃ t es i, s.pending = .command t :: es ∧ decode t = .ok i ∧ readsW i = true ∧ s.wDefined = false ∧
      r = .undefinedW (opcode i)) ∧
  (∀ (s : State) (r : Refusal), (step s = .refused r ∨ checkedStep s = .refused r) →
    ∃ t es, s.pending = .command t :: es ∧
      ((t.cmd.extractLsb' 4 28 = 0 ∧ t.cmd.extractLsb' 0 4 ∈ [0x0#4, 0xD#4, 0xE#4, 0xF#4] ∧
          r = .reservedOpcode (t.cmd.extractLsb' 0 4)) ∨
        (t.cmd.extractLsb' 4 28 ≠ 0 ∧ r = .reservedBits t.cmd))) ∧
  (∀ (s : State) (t : Transaction) (es : List HostEvent) (i : Instr),
    s.pending = .command t :: es → decode t = .ok i → s.wDefined = true →
    ∃ u, step s = .next u ∧ checkedStep s = .next u)

/-- The checked step and the step agree wherever the check does not stop; where it stops, the step goes on with the
mark raised (R94, log 2). -/
def Obligations.CheckedStepRefinesStep : Prop :=
  (∀ s t : State, checkedStep s = .next t → step s = .next t ∧ (t.faulted = true → s.faulted = true)) ∧
  (∀ (s : State) (r : Refusal), checkedStep s = .refused r ↔ step s = .refused r) ∧
  (∀ (s : State) (r : Fault), checkedStep s = .fault r → ∃ t, step s = .next t ∧ t.faulted = true)

/-- R94: the mark `faulted` is sticky: no step but a reset clears it (that steps go on after a fault is the model's
choice, log 17). A step raises it exactly where its command reads
W while W is undefined (that the step goes on there is the model's, log 2). -/
def Obligations.FaultMarkIsSticky : Prop :=
  (∀ s : State, (∀ es, s.pending ≠ .reset :: es) → s.faulted = true →
    (advance s).faulted = true ∧ (checkedAdvance s).faulted = true) ∧
  (∀ s : State, s.faulted = false →
    ((advance s).faulted = true ↔
      ∃ t es i, s.pending = .command t :: es ∧ decode t = .ok i ∧ readsW i = true ∧ s.wDefined = false))

/-- R105: `CREATE` and `FROMRAW` define W; after either, W stays defined until the next reset, since no command makes
it undefined. -/
def Obligations.DefinedUntilNextReset : Prop :=
  (∀ (i : Instr) (s : State), definesW i = true → ∃ t, exec i s = .next t ∧ t.wDefined = true) ∧
  (∀ s : State, s.wDefined = true → (∀ es, s.pending ≠ .reset :: es) →
    (advance s).wDefined = true ∧ (checkedAdvance s).wDefined = true)

/-- The state after reset: W undefined, no response, no event, no mark (R27; the empty response and queue are the
model's, logs 3 and 5). -/
def Obligations.ResetLeavesWordUndefined : Prop :=
  State.reset.word? = none ∧ State.reset.rsp = none ∧ State.reset.pending = [] ∧
    State.reset.faulted = false ∧ State.reset.refused = false

/-- Reset asserted as a host event, from any state: W undefined, no response, both marks false, the host's later
events kept (R106; that a reset is an event of the queue and keeps the later ones is the model's, log 4). -/
def Obligations.ResetEventRestartsBlock : Prop :=
  ∀ (s : State) (es : List HostEvent), s.pending = .reset :: es →
    ∃ t, step s = .next t ∧ checkedStep s = .next t ∧ t.word? = none ∧ t.rsp = none ∧
      t.faulted = false ∧ t.refused = false ∧ t.pending = es

/-! ## Encoding -/

/-- R47: the decoder names exactly twelve command words, the operand words take no part, and the command is the one
of the opcode. -/
def Obligations.DecoderNamesTwelveWords : Prop :=
  (∀ t : Transaction, (∃ i, decode t = .ok i) ↔ 1 ≤ t.cmd.toNat ∧ t.cmd.toNat ≤ 12) ∧
  (∀ (t : Transaction) (i : Instr), decode t = .ok i → opcode i = t.cmd.extractLsb' 0 4) ∧
  (∀ t u : Transaction, t.cmd = u.cmd → (decode t).map opcode = (decode u).map opcode)

/-- Decode and encode agree, on words and on bytes, for every command with every operand value (R40 to R50). -/
def Obligations.DecodeEncodeRoundTrip : Prop :=
  ∀ (i : Instr) (rest : List Byte),
    decode (encode i) = .ok i ∧ decodeBytes (transactionBytes (encode i) ++ rest) = .ok (i, rest)

/-- The other direction, for transactions in the assembler's form: each names a command and is that command's
encoding (R46, R50). -/
def Obligations.EncodeDecodeCanonical : Prop :=
  ∀ t : Transaction, t.canonical = true → ∃ i, decode t = .ok i ∧ encode i = t

/-- Ignored operand words do not matter (R43). -/
def Obligations.IgnoredOperandsDoNotMatter : Prop :=
  ∀ (t : Transaction) (a b c d : Word),
    (t.cmd.toNat ∈ [2, 7, 8, 9, 10] → decode { t with opb := b, opc := c, opd := d } = decode t) ∧
    (t.cmd.toNat = 11 → decode { t with opd := d } = decode t) ∧
    (t.cmd.toNat ∈ [3, 4, 5, 6, 12] →
      decode { t with opa := a, opb := b, opc := c, opd := d } = decode t)

/-- The byte view (R29): byte `i` holds bits 8i+7 to 8i, the four bytes give the word back, byte 0 holds `x[7:0]` and
byte 3 holds `w` in its bits 7:6 and `z[9:4]` in its bits 5:0. -/
def Obligations.ByteViewIsLittleEndian : Prop :=
  ∀ v : Word,
    (∀ i j : Nat, i < 4 → j < 8 → (byteOf v i).getLsbD j = v.getLsbD (8 * i + j)) ∧
    bytesWord (byteOf v 0) (byteOf v 1) (byteOf v 2) (byteOf v 3) = v ∧
    byteOf v 0 = (unpack v).1.extractLsb' 0 8 ∧
    (byteOf v 3).extractLsb' 6 2 = (unpack v).2.2.2 ∧
    (byteOf v 3).extractLsb' 0 6 = (unpack v).2.2.1.extractLsb' 4 6

/-- A sanity check of some words of the opcode map, one per family, and of two reserved ones (R46, R48). That `OPA` is
bits 63:32 of the number in the 64-bit clause is the model's numbering (DEDUCED, log 10). -/
def Obligations.SampleWordsDecode : Prop :=
  decodeTableWord 32 0x00000001 = some (.create 0 0 0 0) ∧
  decodeTableWord 32 0x00000003 = some .getx ∧
  decodeTableWord 32 0x0000000B = some (.setxyz 0 0 0) ∧
  decodeTableWord 32 0x0000000C = some .rawval ∧
  decodeTableWord 64 0x3F00000000000007 = some (.setx 0x3F000000) ∧
  decodeTableWord 32 0x0000000D = none ∧
  decodeTableWord 32 0x00000013 = none

/-- The assembly text of every command assembles to its encoding (R50, operands as hexadecimal words, R51). -/
def Obligations.AssemblyTextRoundTrip : Prop :=
  ∀ i : Instr, assembleLine (asmText i) = .ok (some (encode i))

/-- The special float literals of R51, and two decimals. -/
def Obligations.FloatLiteralWords : Prop :=
  parseFloat ['+', 'i', 'n', 'f'] = some 0x7F800000 ∧ parseFloat ['-', 'i', 'n', 'f'] = some 0xFF800000 ∧
  parseFloat ['-', '0', '.', '0'] = some 0x80000000 ∧ parseFloat ['n', 'a', 'n'] = some 0x7FC00000 ∧
  parseFloat ['0', '.', '4', '4', '4'] = some 0x3EE353F8 ∧ parseFloat ['-', '1', '.', '0'] = some 0xBF800000

/-! ## Datapath -/

/-- R9: among the words of non-negative finite data, the order of the words is the order of the values. -/
def Obligations.MagnitudeFollowsWordOrder : Prop :=
  ∀ a b : Word, a.toNat < 0x80000000 → b.toNat < 0x80000000 →
    (a.toNat < b.toNat ↔ magUnits a < magUnits b)

/-- R9, roundTiesToEven: up to the largest finite datum, the rounding of `n / d` units is a finite datum nearest to
it, and where another datum is equally near, the one with an even fraction. -/
def Obligations.RoundingIsNearestTiesToEven : Prop :=
  ∀ n d : Nat, 0 < d → n ≤ d * magUnits 0x7F7FFFFF →
    (roundUnits n d).toNat < 0x7F800000 ∧
    ∀ b : Word, b.toNat < 0x7F800000 →
      ((d * magUnits (roundUnits n d) : Int) - n).natAbs ≤ ((d * magUnits b : Int) - n).natAbs ∧
      (b ≠ roundUnits n d →
        ((d * magUnits (roundUnits n d) : Int) - n).natAbs = ((d * magUnits b : Int) - n).natAbs →
        (roundUnits n d).getLsbD 0 = false)

/-- R58 and R57: the clamper's result is finite, between 0 and 1, a fixed point, and unchanged inside the range;
infinities clamp to 1.0 and +0.0. -/
def Obligations.ClamperProperties : Prop :=
  clamp01 0x7F800000 = 0x3F800000 ∧ clamp01 0xFF800000 = 0x00000000 ∧
  (∀ b : Word,
    (∃ u, f32val (clamp01 b) = .finite u ∧ 0 ≤ u ∧ u ≤ (unitsOfOne : Int)) ∧
    clamp01 (clamp01 b) = clamp01 b) ∧
  (∀ (b : Word) (u : Int), f32val b = .finite u → 0 ≤ u → u ≤ (unitsOfOne : Int) → clamp01 b = b)

/-- The range of the scaler (R59): between 0 and the maximum level, exactly the maximum level at 1.0, +0.0 at -0.0. -/
def Obligations.ScalerRange : Prop :=
  (∀ (b : Word) (m : Nat), m = 1023 ∨ m = 3 →
    f32val (scale (clamp01 b) m) = .finite (magUnits (scale (clamp01 b) m)) ∧
      magUnits (scale (clamp01 b) m) ≤ m * unitsOfOne) ∧
  scale 0x3F800000 1023 = 0x447FC000 ∧ scale 0x3F800000 3 = 0x40400000 ∧ scale 0x80000000 1023 = 0x00000000

/-- R60: the converter is the floor of the real value plus one half, for every finite datum that is not negative; so
0x3EFFFFFF gives 0. -/
def Obligations.ConverterIsFloorOfValuePlusHalf : Prop :=
  (∀ p : Word, p.toNat < 0x7F800000 → (roundHalfAway p : Int) = ⌊f32rat p + 1 / 2⌋) ∧
  roundHalfAway 0x3EFFFFFF = 0

/-- R61: every level fits its field, so the cast changes no value. -/
def Obligations.LevelsFitTheirFields : Prop :=
  ∀ b : Word, quantize b 1023 ≤ 1023 ∧ quantize b 3 ≤ 3 ∧
    (q10 b).toNat = quantize b 1023 ∧ (q2 b).toNat = quantize b 3

/-- The ends of the quantizers (R64): NaN and values at or below 0 give level 0, values at or above 1 the maximum. -/
def Obligations.QuantizerEnds : Prop :=
  ∀ (b : Word) (m : Nat), m = 1023 ∨ m = 3 →
    (isNaN b = true → quantize b m = 0) ∧
    (F32Val.le (f32val b) (.finite 0) = true → quantize b m = 0) ∧
    (F32Val.le (.finite unitsOfOne) (f32val b) = true → quantize b m = m)

/-- The quantizers are monotone (R64). -/
def Obligations.QuantizersAreMonotone : Prop :=
  ∀ (a b : Word) (m : Nat), m = 1023 ∨ m = 3 →
    F32Val.le (f32val a) (f32val b) = true → quantize a m ≤ quantize b m

/-- The 2-bit quantizer by its thresholds (R64, R85): 0x3E2AAAAB, 0x3F000000 and 0x3F555555. -/
def Obligations.TwoBitThresholds : Prop :=
  ∀ b : Word,
    (q2 b).toNat =
      if isNaN b || f32Negative b then 0
      else if b.toNat < 0x3E2AAAAB then 0
      else if b.toNat < 0x3F000000 then 1
      else if b.toNat < 0x3F555555 then 2
      else 3

/-- The thresholds of both quantizers (R64): for each level `k` there is a smallest word of a value in (0, 1] with
level at least `k`; its level is `k`, and its product is exactly `k` - 1/2, a tie. -/
def Obligations.ThresholdsAreExactTies : Prop :=
  ∀ m k : Nat, m = 1023 ∨ m = 3 → 1 ≤ k → k ≤ m →
    ∃ v : Word, 0 < v.toNat ∧ v.toNat ≤ 0x3F800000 ∧ quantize v m = k ∧
      (∀ b : Word, b.toNat < v.toNat → quantize b m < k) ∧
      2 * magUnits (scale v m) = (2 * k - 1) * unitsOfOne

/-- R65: a zero or subnormal input of either sign gives level 0, so treating subnormals as zero changes no level. -/
def Obligations.SubnormalsGiveLevelZero : Prop :=
  ∀ b : Word, f32Exponent b = 0 → quantize b 1023 = 0 ∧ quantize b 3 = 0

/-- R69: the laws of packing. -/
def Obligations.PackingLaws : Prop :=
  (∀ (x y z : Level10) (w : Level2), unpack (pack x y z w) = (x, y, z, w)) ∧
  (∀ v : Word, pack (unpack v).1 (unpack v).2.1 (unpack v).2.2.1 (unpack v).2.2.2 = v) ∧
  (∀ (v : Word) (f g : Field) (k : Nat), k ≤ maxLevel f →
    fieldLevel (insertField v f (BitVec.ofNat 32 k)) g = if g = f then k else fieldLevel v g) ∧
  (∀ (v : Word) (f g : Field) (j k : Nat), f ≠ g → j ≤ maxLevel f → k ≤ maxLevel g →
    insertField (insertField v f (BitVec.ofNat 32 j)) g (BitVec.ofNat 32 k) =
      insertField (insertField v g (BitVec.ofNat 32 k)) f (BitVec.ofNat 32 j)) ∧
  (∀ (v : Word) (x y z : Level10),
    (v &&& 0xC0000000) ||| pack x y z 0 =
      insertField (insertField (insertField v .x (x.setWidth 32)) .y (y.setWidth 32)) .z (z.setWidth 32))

/-- R71: the normaliser's results are data in [0.0, 1.0], never NaN, infinite, negative, -0.0 or subnormal; they rise
strictly with the level; the quotient is exact only at the ends; elsewhere the error is at most half a unit in the
last place. -/
def Obligations.NormaliserProperties : Prop :=
  ∀ m k : Nat, m = 1023 ∨ m = 3 → k ≤ m →
    (normalize k m).toNat ≤ 0x3F800000 ∧
    (normalize k m = 0 ∨ 0x3A802008 ≤ (normalize k m).toNat) ∧
    (∀ j, j < k → (normalize j m).toNat < (normalize k m).toNat ∧
      magUnits (normalize j m) < magUnits (normalize k m)) ∧
    (magUnits (normalize k m) * m = k * unitsOfOne ↔ k = 0 ∨ k = m) ∧
    (1 ≤ k → 2 * ((magUnits (normalize k m) * m : Int) - k * unitsOfOne).natAbs
      ≤ m * 2 ^ (f32Exponent (normalize k m) - 1))

/-- The round-trip error bound (R72). -/
def Obligations.RoundTripErrorBound : Prop :=
  ∀ (b : Word) (m : Nat), m = 1023 ∨ m = 3 → b.toNat ≤ 0x3F800000 →
    |f32rat (normalize (quantize b m) m) - f32rat b| < 1 / (2 * (m : Rat)) + 1 / 2 ^ 23

/-! ## Whole-machine rules -/

/-- Commands take effect one at a time in issue order (R34): running the host's queue of encoded commands is executing
the commands one after the other. The queue is the model's (DESIGN CHOICE, log 3); that a command which reads an undefined
W goes on, in both, is too (DESIGN CHOICE, log 2). -/
def Obligations.QueueRunsInIssueOrder : Prop :=
  ∀ (is : List Instr) (s : State),
    Host.Core.run Sys2Proof.core is.length { s with pending := is.map fun i => .command (encode i) } =
      execAll is { s with pending := [] }

/-- Every step keeps the response invariant (R45, R94): while W is undefined and `faulted` is not set there is no
response. That a read of an undefined W goes on and is marked is the model's choice (DESIGN CHOICE, log 2). -/
def Obligations.StepKeepsResponseInvariant : Prop :=
  (∀ s t : State, ResponseInv s → step s = .next t → ResponseInv t) ∧
  (∀ s : State, ResponseInv s → ResponseInv (advance s))

/-- The response invariant holds after reset, since there is no response then (DESIGN CHOICE, log 5). -/
def Obligations.ResetMeetsResponseInvariant : Prop := ResponseInv State.reset

/-- R108: a host that follows the boot rule is never stopped and never marked: all its events are taken, in the step
and in the checked step alike, and the run ends clean. The queue of events is the model's (DESIGN CHOICE, log 3). -/
def Obligations.BootRuleRunsClean : Prop :=
  ∀ s : State, Clean s → followsBootRule s.wDefined s.pending = true →
    ∃ t, Host.Core.run Sys2Proof.core s.pending.length s = .next t ∧ t.pending = [] ∧ Clean t ∧
      checkedRunFor s.pending.length s = t

/-- The word that W holds after reset cannot be observed by a run that is not marked (R105, R13): with W undefined,
another word in its place gives the same responses and, once W is defined, the same W. -/
def Obligations.ResetWordIsNotObservable : Prop :=
  ∀ (n : Nat) (s : State) (v : Word), s.wDefined = false → (∀ e ∈ s.pending, e ≠ .reset) →
    (runFor n s).faulted = false →
    observe n { s with w := v } = observe n s ∧
      (runFor n { s with w := v }).word? = (runFor n s).word?

/-- Blocks share no state (R102): a step of one block leaves every other block as it was, and does to its own what a
step of the block alone does. It speaks of a step that goes on (a system step whose block refuses: log 18). -/
def Obligations.BlocksAreIndependent : Prop :=
  ∀ (n : Nat) (blocks : Vector State n) (i : Fin n) (t : State), step blocks[i] = .next t →
    ∃ after, stepBlock blocks i = .next after ∧ after[i] = t ∧ ∀ j : Fin n, j ≠ i → after[j] = blocks[j]
end

