-- ==== Sys2Proof/Laws/State.lean ====
section
/-! SUPPORT. One lemma per field per update of the state: what each named operation writes and what it leaves. -/

namespace Sys2Proof.Machine

@[simp] theorem State.noteRead_w (s : State) : (s.noteRead).w = s.w := rfl
@[simp] theorem State.noteRead_wDefined (s : State) : (s.noteRead).wDefined = s.wDefined := rfl
@[simp] theorem State.noteRead_rsp (s : State) : (s.noteRead).rsp = s.rsp := rfl
@[simp] theorem State.noteRead_pending (s : State) : (s.noteRead).pending = s.pending := rfl
@[simp] theorem State.noteRead_faulted (s : State) : (s.noteRead).faulted = (s.faulted || !s.wDefined) := rfl
@[simp] theorem State.noteRead_refused (s : State) : (s.noteRead).refused = s.refused := rfl
@[simp] theorem State.noteRead_resets (s : State) : (s.noteRead).resets = s.resets := rfl

@[simp] theorem State.markFaulted_w (s : State) : (s.markFaulted).w = s.w := rfl
@[simp] theorem State.markFaulted_wDefined (s : State) : (s.markFaulted).wDefined = s.wDefined := rfl
@[simp] theorem State.markFaulted_rsp (s : State) : (s.markFaulted).rsp = s.rsp := rfl
@[simp] theorem State.markFaulted_pending (s : State) : (s.markFaulted).pending = s.pending := rfl
@[simp] theorem State.markFaulted_faulted (s : State) : (s.markFaulted).faulted = true := rfl
@[simp] theorem State.markFaulted_refused (s : State) : (s.markFaulted).refused = s.refused := rfl
@[simp] theorem State.markFaulted_resets (s : State) : (s.markFaulted).resets = s.resets := rfl

@[simp] theorem State.markRefused_w (s : State) : (s.markRefused).w = s.w := rfl
@[simp] theorem State.markRefused_wDefined (s : State) : (s.markRefused).wDefined = s.wDefined := rfl
@[simp] theorem State.markRefused_rsp (s : State) : (s.markRefused).rsp = s.rsp := rfl
@[simp] theorem State.markRefused_pending (s : State) : (s.markRefused).pending = s.pending := rfl
@[simp] theorem State.markRefused_faulted (s : State) : (s.markRefused).faulted = s.faulted := rfl
@[simp] theorem State.markRefused_refused (s : State) : (s.markRefused).refused = true := rfl
@[simp] theorem State.markRefused_resets (s : State) : (s.markRefused).resets = s.resets := rfl

@[simp] theorem State.construct_w (s : State) (v : Word) : (s.construct v).w = v := rfl
@[simp] theorem State.construct_wDefined (s : State) (v : Word) : (s.construct v).wDefined = true := rfl
@[simp] theorem State.construct_rsp (s : State) (v : Word) : (s.construct v).rsp = none := rfl
@[simp] theorem State.construct_pending (s : State) (v : Word) : (s.construct v).pending = s.pending := rfl
@[simp] theorem State.construct_faulted (s : State) (v : Word) : (s.construct v).faulted = s.faulted := rfl
@[simp] theorem State.construct_refused (s : State) (v : Word) : (s.construct v).refused = s.refused := rfl
@[simp] theorem State.construct_resets (s : State) (v : Word) : (s.construct v).resets = s.resets := rfl

@[simp] theorem State.store_w (s : State) (v : Word) : (s.store v).w = v := rfl
@[simp] theorem State.store_wDefined (s : State) (v : Word) : (s.store v).wDefined = s.wDefined := rfl
@[simp] theorem State.store_rsp (s : State) (v : Word) : (s.store v).rsp = none := rfl
@[simp] theorem State.store_pending (s : State) (v : Word) : (s.store v).pending = s.pending := rfl
@[simp] theorem State.store_faulted (s : State) (v : Word) : (s.store v).faulted = s.faulted := rfl
@[simp] theorem State.store_refused (s : State) (v : Word) : (s.store v).refused = s.refused := rfl
@[simp] theorem State.store_resets (s : State) (v : Word) : (s.store v).resets = s.resets := rfl

@[simp] theorem State.respond_w (s : State) (v : Word) : (s.respond v).w = s.w := rfl
@[simp] theorem State.respond_wDefined (s : State) (v : Word) : (s.respond v).wDefined = s.wDefined := rfl
@[simp] theorem State.respond_rsp (s : State) (v : Word) : (s.respond v).rsp = some v := rfl
@[simp] theorem State.respond_pending (s : State) (v : Word) : (s.respond v).pending = s.pending := rfl
@[simp] theorem State.respond_faulted (s : State) (v : Word) : (s.respond v).faulted = s.faulted := rfl
@[simp] theorem State.respond_refused (s : State) (v : Word) : (s.respond v).refused = s.refused := rfl
@[simp] theorem State.respond_resets (s : State) (v : Word) : (s.respond v).resets = s.resets := rfl

@[simp] theorem State.assertReset_w (s : State) : (s.assertReset).w = Config.resetWord (s.resets + 1) := rfl
@[simp] theorem State.assertReset_wDefined (s : State) : (s.assertReset).wDefined = false := rfl
@[simp] theorem State.assertReset_rsp (s : State) : (s.assertReset).rsp = none := rfl
@[simp] theorem State.assertReset_pending (s : State) : (s.assertReset).pending = s.pending := rfl
@[simp] theorem State.assertReset_faulted (s : State) : (s.assertReset).faulted = false := rfl
@[simp] theorem State.assertReset_refused (s : State) : (s.assertReset).refused = false := rfl
@[simp] theorem State.assertReset_resets (s : State) : (s.assertReset).resets = s.resets + 1 := rfl

@[simp] theorem State.takeEvent_w (s : State) : (s.takeEvent).w = s.w := rfl
@[simp] theorem State.takeEvent_wDefined (s : State) : (s.takeEvent).wDefined = s.wDefined := rfl
@[simp] theorem State.takeEvent_rsp (s : State) : (s.takeEvent).rsp = s.rsp := rfl
@[simp] theorem State.takeEvent_pending (s : State) : (s.takeEvent).pending = s.pending.tail := rfl
@[simp] theorem State.takeEvent_faulted (s : State) : (s.takeEvent).faulted = s.faulted := rfl
@[simp] theorem State.takeEvent_refused (s : State) : (s.takeEvent).refused = s.refused := rfl
@[simp] theorem State.takeEvent_resets (s : State) : (s.takeEvent).resets = s.resets := rfl

@[simp] theorem State.issueTableWord_w (s : State) (n v : Nat) : (s.issueTableWord n v).w = s.w := rfl
@[simp] theorem State.issueTableWord_wDefined (s : State) (n v : Nat) : (s.issueTableWord n v).wDefined = s.wDefined := rfl
@[simp] theorem State.issueTableWord_rsp (s : State) (n v : Nat) : (s.issueTableWord n v).rsp = s.rsp := rfl
@[simp] theorem State.issueTableWord_pending (s : State) (n v : Nat) : (s.issueTableWord n v).pending = .command (tableTransaction n v) :: s.pending := rfl
@[simp] theorem State.issueTableWord_faulted (s : State) (n v : Nat) : (s.issueTableWord n v).faulted = s.faulted := rfl
@[simp] theorem State.issueTableWord_refused (s : State) (n v : Nat) : (s.issueTableWord n v).refused = s.refused := rfl
@[simp] theorem State.issueTableWord_resets (s : State) (n v : Nat) : (s.issueTableWord n v).resets = s.resets := rfl

@[simp] theorem State.reset_wDefined : State.reset.wDefined = false := rfl
@[simp] theorem State.reset_rsp : State.reset.rsp = none := rfl
@[simp] theorem State.reset_pending : State.reset.pending = [] := rfl
@[simp] theorem State.reset_faulted : State.reset.faulted = false := rfl
@[simp] theorem State.reset_refused : State.reset.refused = false := rfl
@[simp] theorem State.reset_resets : State.reset.resets = 0 := rfl

/-- Two states with equal fields are equal. -/
theorem State.ext_fields {s t : State} (hw : s.w = t.w) (hd : s.wDefined = t.wDefined) (hr : s.rsp = t.rsp)
    (hp : s.pending = t.pending) (hf : s.faulted = t.faulted) (hx : s.refused = t.refused)
    (hn : s.resets = t.resets) : s = t := by
  cases s; cases t; simp_all

@[simp] theorem State.word?_of_defined {s : State} (h : s.wDefined = true) : s.word? = some s.w := by
  simp [State.word?, h]

@[simp] theorem State.word?_of_undefined {s : State} (h : s.wDefined = false) : s.word? = none := by
  simp [State.word?, h]

end Sys2Proof.Machine
end

