-- ==== Sys2Proof/Laws/Ops.lean ====
section
/-! SUPPORT. What each shared operation can do, said once: taking the host's event, the two shared meanings, the
checked command, and the state after an outcome. -/

namespace Sys2Proof.Machine

/-- The three things one event can be, for any meaning of the commands. -/
theorem stepWith_cases (run : Instr → State → Host.Outcome State Fault Refusal) (s : State) :
    (s.pending = [] ∧ stepWith run s = .next s) ∨
    (∃ es, s.pending = .reset :: es ∧ stepWith run s = .next s.takeEvent.assertReset) ∨
    (∃ t es, s.pending = .command t :: es ∧
      ((∃ i, decode t = .ok i ∧ stepWith run s = run i s.takeEvent) ∨
       (∃ e, decode t = .error e ∧ stepWith run s = .refused (refusalOf t.cmd e)))) := by
  unfold stepWith
  split
  · next h => exact .inl ⟨h, rfl⟩
  · next es h => exact .inr (.inl ⟨es, h, rfl⟩)
  · next t es h =>
    refine .inr (.inr ⟨t, es, h, ?_⟩)
    split
    · next i hi => exact .inl ⟨i, hi, rfl⟩
    · next e he => exact .inr ⟨e, he, rfl⟩

@[simp] theorem readComponent_eq (f : Field) (s : State) :
    readComponent f s = .next (s.noteRead.respond (normalize (fieldLevel s.w f) (maxLevel f))) := rfl

@[simp] theorem writeComponent_eq (f : Field) (k : Word) (s : State) :
    writeComponent f k s = .next (s.noteRead.store (insertField s.w f k)) := rfl

/-- Where W is defined, the check changes nothing. -/
theorem checkedExec_of_defined {s : State} (h : s.wDefined = true) (i : Instr) :
    checkedExec i s = exec i s := by
  simp [checkedExec, h]

/-- A command that does not read W is never stopped by the check. -/
theorem checkedExec_of_not_reads {i : Instr} (h : readsW i = false) (s : State) :
    checkedExec i s = exec i s := by
  simp [checkedExec, h]

/-- A command that reads W while W is undefined is stopped by the check. -/
theorem checkedExec_fault {i : Instr} {s : State} (hi : readsW i = true) (hs : s.wDefined = false) :
    checkedExec i s = .fault (.undefinedW (opcode i)) := by
  simp [checkedExec, hi, hs]

@[simp] theorem settle_next (s t : State) : settle s (.next t) = t := rfl

@[simp] theorem settle_fault (s : State) (r : Fault) :
    settle s (.fault r) = { s with pending := s.pending.tail, rsp := none, faulted := true } := rfl

@[simp] theorem settle_refused (s : State) (r : Refusal) :
    settle s (.refused r) = { s with pending := s.pending.tail, rsp := none, refused := true } := rfl

@[simp] theorem runWith_zero (adv : State → State) (s : State) : runWith adv 0 s = s := rfl

@[simp] theorem runWith_succ (adv : State → State) (n : Nat) (s : State) :
    runWith adv (n + 1) s = runWith adv n (adv s) := rfl

@[simp] theorem execAll_nil (s : State) : execAll [] s = .next s := rfl

/-- A list of commands whose first completes goes on from the state that it leaves. -/
theorem execAll_cons_of_next {i : Instr} {s t : State} (h : exec i s = .next t) (is : List Instr) :
    execAll (i :: is) s = execAll is t := by
  simp [execAll, h]

end Sys2Proof.Machine
end

