-- ==== Sys2Proof/Laws/Exec.lean ====
section
/-! SUPPORT. Each command as one named operation on the state, so that no proof unfolds a meaning. -/

namespace Sys2Proof.Machine

@[simp] theorem exec_create (fx fy fz fw : Word) (s : State) :
    exec (.create fx fy fz fw) s = .next (s.construct (pack (q10 fx) (q10 fy) (q10 fz) (q2 fw))) := rfl

@[simp] theorem exec_fromraw (r : Word) (s : State) : exec (.fromraw r) s = .next (s.construct r) := rfl

@[simp] theorem exec_getx (s : State) :
    exec .getx s = .next (s.noteRead.respond (normalize (fieldLevel s.w .x) 1023)) := rfl

@[simp] theorem exec_gety (s : State) :
    exec .gety s = .next (s.noteRead.respond (normalize (fieldLevel s.w .y) 1023)) := rfl

@[simp] theorem exec_getz (s : State) :
    exec .getz s = .next (s.noteRead.respond (normalize (fieldLevel s.w .z) 1023)) := rfl

@[simp] theorem exec_getw (s : State) :
    exec .getw s = .next (s.noteRead.respond (normalize (fieldLevel s.w .w) 3)) := rfl

@[simp] theorem exec_setx (f : Word) (s : State) :
    exec (.setx f) s = .next (s.noteRead.store (insertField s.w .x ((q10 f).setWidth 32))) := rfl

@[simp] theorem exec_sety (f : Word) (s : State) :
    exec (.sety f) s = .next (s.noteRead.store (insertField s.w .y ((q10 f).setWidth 32))) := rfl

@[simp] theorem exec_setz (f : Word) (s : State) :
    exec (.setz f) s = .next (s.noteRead.store (insertField s.w .z ((q10 f).setWidth 32))) := rfl

@[simp] theorem exec_setw (f : Word) (s : State) :
    exec (.setw f) s = .next (s.noteRead.store (insertField s.w .w ((q2 f).setWidth 32))) := rfl

@[simp] theorem exec_setxyz (fx fy fz : Word) (s : State) :
    exec (.setxyz fx fy fz) s =
      .next (s.noteRead.store (insertXYZ s.w (q10 fx) (q10 fy) (q10 fz))) := rfl

@[simp] theorem exec_rawval (s : State) : exec .rawval s = .next (s.noteRead.respond s.w) := rfl

/-- A read of a defined W leaves no mark. -/
theorem State.noteRead_of_defined {s : State} (h : s.wDefined = true) : s.noteRead = s := by
  cases s; simp_all [State.noteRead]

end Sys2Proof.Machine
end

