-- ==== Sys2Proof/Laws/PerInstr.lean ====
section
/-! SUPPORT. Statements made per instruction. -/

namespace Sys2Proof.Laws.CanonicalEncoding

/-- The encoder writes a transaction in the assembler's form (R50): reserved bits zero, an assigned opcode, which is
the command's own (R46), and zero in every ignored operand word; and the command's operands are valid (R44). -/
def Statement (i : Instr) : Prop :=
  i.wellFormed = true ∧ (encode i).canonical = true ∧ (encode i).op = opcode i

theorem encode_canonical (i : Instr) : (encode i).canonical = true := by
  cases i <;> simp [encode, Transaction.canonical, Transaction.wellFormed, Transaction.reservedClear,
    Transaction.opAssigned, Transaction.ignoredClear, Transaction.rsvd, Transaction.op]

theorem create (fx fy fz fw : Word) : Statement (.create fx fy fz fw) := ⟨rfl, encode_canonical _, rfl⟩
theorem fromraw (r : Word) : Statement (.fromraw r) := ⟨rfl, encode_canonical _, rfl⟩
theorem getx : Statement .getx := ⟨rfl, encode_canonical _, rfl⟩
theorem gety : Statement .gety := ⟨rfl, encode_canonical _, rfl⟩
theorem getz : Statement .getz := ⟨rfl, encode_canonical _, rfl⟩
theorem getw : Statement .getw := ⟨rfl, encode_canonical _, rfl⟩
theorem setx (f : Word) : Statement (.setx f) := ⟨rfl, encode_canonical _, rfl⟩
theorem sety (f : Word) : Statement (.sety f) := ⟨rfl, encode_canonical _, rfl⟩
theorem setz (f : Word) : Statement (.setz f) := ⟨rfl, encode_canonical _, rfl⟩
theorem setw (f : Word) : Statement (.setw f) := ⟨rfl, encode_canonical _, rfl⟩
theorem setxyz (fx fy fz : Word) : Statement (.setxyz fx fy fz) := ⟨rfl, encode_canonical _, rfl⟩
theorem rawval : Statement .rawval := ⟨rfl, encode_canonical _, rfl⟩

end Sys2Proof.Laws.CanonicalEncoding
end

