-- ==== Sys2Proof/Tests/Slice0.lean ====
section
/-! SUPPORT. Tests: expected values are those of the spec's worked examples and vectors (95_test_vectors.md), and
witnesses that the hypotheses of the statements can be met. -/

namespace Sys2Proof.Tests

open Sys2Proof.Machine

/-- A small state with a defined W. -/
def defined (w : Word) : State :=
  { w := w, wDefined := true, rsp := none, pending := [], faulted := false, refused := false, resets := 0 }

/-- A small state whose W is undefined. -/
def undefined (w : Word) : State := { defined w with wDefined := false }

/-- A defined W and one event of the host. -/
def withEvent (e : HostEvent) (s : State) : State := { s with pending := [e] }

/-- W after a step that went on. -/
def wordAfter : Host.Outcome State Fault Refusal → Option Word
  | .next t => some t.w
  | .fault _ => none
  | .refused _ => none

/-- The response of a step that went on. -/
def responseOf : Host.Outcome State Fault Refusal → Option Word
  | .next t => t.rsp
  | .fault _ => none
  | .refused _ => none

/-- The reason of a refusal. -/
def refusalReason : Host.Outcome State Fault Refusal → Option Refusal
  | .refused r => some r
  | .next _ => none
  | .fault _ => none

/-- The reason of a fault. -/
def faultReason : Host.Outcome State Fault Refusal → Option Fault
  | .fault r => some r
  | .next _ => none
  | .refused _ => none

/-! ### Well-formedness (R41, R44, R48, R50): an ill-formed term for each check -/

theorem test_reserved_bit_refused : (⟨0x80000001, 0, 0, 0, 0⟩ : Transaction).reservedClear = false := by decide
theorem test_reserved_opcode_refused : (⟨0x0000000D, 0, 0, 0, 0⟩ : Transaction).opAssigned = false := by decide
theorem test_opcode_zero_refused : (⟨0, 0, 0, 0, 0⟩ : Transaction).wellFormed = false := by decide
theorem test_ignored_word_not_canonical : (⟨0x3, 0xFFFFFFFF, 0, 0, 0⟩ : Transaction).canonical = false := by decide
theorem test_ignored_word_still_wellFormed : (⟨0x3, 0xFFFFFFFF, 0, 0, 0⟩ : Transaction).wellFormed = true := by
  decide
theorem test_nan_operand_wellFormed : (Instr.setx 0x7FC00000).wellFormed = true := by decide

/-! ### Decoding (R46): the command word of every command, bit by bit -/

theorem test_decode_create (a b c d : Word) :
    decode ⟨0b00000000000000000000000000000001, a, b, c, d⟩ = .ok (.create a b c d) := by
  simp [decode, Transaction.rsvd, Transaction.op]
theorem test_decode_fromraw (a b c d : Word) :
    decode ⟨0b00000000000000000000000000000010, a, b, c, d⟩ = .ok (.fromraw a) := by
  simp [decode, Transaction.rsvd, Transaction.op]
theorem test_decode_getx (a b c d : Word) :
    decode ⟨0b00000000000000000000000000000011, a, b, c, d⟩ = .ok .getx := by
  simp [decode, Transaction.rsvd, Transaction.op]
theorem test_decode_gety (a b c d : Word) :
    decode ⟨0b00000000000000000000000000000100, a, b, c, d⟩ = .ok .gety := by
  simp [decode, Transaction.rsvd, Transaction.op]
theorem test_decode_getz (a b c d : Word) :
    decode ⟨0b00000000000000000000000000000101, a, b, c, d⟩ = .ok .getz := by
  simp [decode, Transaction.rsvd, Transaction.op]
theorem test_decode_getw (a b c d : Word) :
    decode ⟨0b00000000000000000000000000000110, a, b, c, d⟩ = .ok .getw := by
  simp [decode, Transaction.rsvd, Transaction.op]
theorem test_decode_setx (a b c d : Word) :
    decode ⟨0b00000000000000000000000000000111, a, b, c, d⟩ = .ok (.setx a) := by
  simp [decode, Transaction.rsvd, Transaction.op]
theorem test_decode_sety (a b c d : Word) :
    decode ⟨0b00000000000000000000000000001000, a, b, c, d⟩ = .ok (.sety a) := by
  simp [decode, Transaction.rsvd, Transaction.op]
theorem test_decode_setz (a b c d : Word) :
    decode ⟨0b00000000000000000000000000001001, a, b, c, d⟩ = .ok (.setz a) := by
  simp [decode, Transaction.rsvd, Transaction.op]
theorem test_decode_setw (a b c d : Word) :
    decode ⟨0b00000000000000000000000000001010, a, b, c, d⟩ = .ok (.setw a) := by
  simp [decode, Transaction.rsvd, Transaction.op]
theorem test_decode_setxyz (a b c d : Word) :
    decode ⟨0b00000000000000000000000000001011, a, b, c, d⟩ = .ok (.setxyz a b c) := by
  simp [decode, Transaction.rsvd, Transaction.op]
theorem test_decode_rawval (a b c d : Word) :
    decode ⟨0b00000000000000000000000000001100, a, b, c, d⟩ = .ok .rawval := by
  simp [decode, Transaction.rsvd, Transaction.op]
/-- Section 2.8: `RSVD` not 0, though `OP` is 0x3. -/
theorem test_decode_reserved_bits : decode ⟨0x00000013, 0, 0, 0, 0⟩ = .error (.reservedBits 0x00000013) := rfl
theorem test_decode_reserved_opcode : decode ⟨0x0000000F, 0, 0, 0, 0⟩ = .error (.reservedOpcode 0xF) := rfl
theorem test_decode_truncated : decodeBytes [0x03, 0, 0] = .error (.truncated 3) := rfl
/-- Section 2.3: the bytes of 0x6A98E1C6 (R29). -/
theorem test_byte_view : wordBytes 0x6A98E1C6 = [0xC6, 0xE1, 0x98, 0x6A] := by decide
theorem test_table_word_second_word : decodeTableWord 64 0x3F00000000000007 = some (.setx 0x3F000000) := by decide

/-! ### Datapath: sections 2.1 to 2.4 of the vectors -/

theorem test_clamp_next_above_one : clamp01 0x3F800001 = 0x3F800000 := by decide
theorem test_clamp_negative_zero : clamp01 0x80000000 = 0x80000000 := by decide
theorem test_clamp_signalling_nan : clamp01 0x7F800001 = 0x00000000 := by decide
theorem test_scale_rounds : scale 0x3DCCCCCD 1023 = 0x42CC999A := by decide
theorem test_scale_subnormal : scale 0x00000001 1023 = 0x000003FF := by decide
theorem test_quantize_threshold_one : quantize 0x3A002008 1023 = 1 := by decide
theorem test_quantize_below_threshold_one : quantize 0x3A002007 1023 = 0 := by decide
theorem test_quantize_tie_of_top_level : quantize 0x3F7FDFF8 1023 = 1023 := by decide
theorem test_quantize_two_bit_tie : quantize 0x3F555555 3 = 3 := by decide
theorem test_converter_below_half : roundHalfAway 0x3EFFFFFF = 0 := by decide
theorem test_normalize_one : normalize 1 1023 = 0x3A802008 := by decide
theorem test_normalize_1022 : normalize 1022 1023 = 0x3F7FBFF0 := by decide
theorem test_normalize_two_thirds : normalize 2 3 = 0x3F2AAAAB := by decide
theorem test_pack : pack 454 568 681 1 = 0x6A98E1C6 := by decide
theorem test_unpack : unpack 0x7FC00000 = (0, 0, 1020, 1) := by decide
theorem test_insert_z_clears : insertField 0xFFFFFFFF .z 0 = 0xC00FFFFF := by decide

/-! ### Commands: sections 2.5 to 2.9 -/

theorem test_create_clamps :
    wordAfter (exec (.create 0xBF800000 0x40000000 0x7FC00000 0x7F800000) (undefined 5)) = some 0xC00FFC00 := by
  decide
theorem test_create_thresholds :
    wordAfter (exec (.create 0x3EAAAAAB 0x3F2AAAAB 0x3F800001 0x3F555554) (defined 0)) = some 0xBFFAA955 := by
  decide
theorem test_fromraw : wordAfter (exec (.fromraw 0x12345678) (undefined 0)) = some 0x12345678 := by decide
theorem test_getx : responseOf (exec .getx (defined 0x12345678)) = some 0x3F1E278A := by decide
theorem test_gety : responseOf (exec .gety (defined 0x12345678)) = some 0x3E8AA2A9 := by decide
theorem test_getz : responseOf (exec .getz (defined 0x7FC00000)) = some 0x3F7F3FD0 := by decide
theorem test_getw : responseOf (exec .getw (defined 0x80000000)) = some 0x3F2AAAAB := by decide
theorem test_getw_ignores_other_fields : responseOf (exec .getw (defined 0x3FFFFC00)) = some 0x00000000 := by decide
theorem test_setx : wordAfter (exec (.setx 0x3E99999A) (defined 0x12345678)) = some 0x12345533 := by decide
theorem test_sety : wordAfter (exec (.sety 0x3F7FDFF7) (defined 0)) = some 0x000FF800 := by decide
theorem test_sety_nan : wordAfter (exec (.sety 0x7FC00000) (defined 0x6A98E1C6)) = some 0x6A9001C6 := by decide
theorem test_setz : wordAfter (exec (.setz 0x3A002007) (defined 0xFFFFFFFF)) = some 0xC00FFFFF := by decide
theorem test_setw : wordAfter (exec (.setw 0x3E2AAAAA) (defined 0xFFFFFFFF)) = some 0x3FFFFFFF := by decide
theorem test_setw_no_response : responseOf (exec (.setw 0x3E2AAAAA) { defined 0 with rsp := some 7 }) = none := by
  decide
theorem test_setxyz :
    wordAfter (exec (.setxyz 0x3E800000 0x3F000000 0x3F400000) (defined 0x12345678)) = some 0x2FF80100 := by
  decide
theorem test_rawval : responseOf (exec .rawval (defined 0xAAAAAAAA)) = some 0xAAAAAAAA := by decide

/-! ### Steps -/

theorem test_step_issues_table_word :
    responseOf (step ((defined 0xFFFFFFFF).withFetchWord 32 0x00000003)) = some 0x3F800000 := by decide
/-- The first command after reset: `CREATE` with operand words of zeros. -/
theorem test_step_from_reset : wordAfter (step (State.reset.withFetchWord 32 0x00000001)) = some 0x00000000 := by
  decide
/-- Program P10: refused, W kept, the mark true. -/
theorem test_refused_reserved_bits :
    refusalReason (step (withEvent (.command ⟨0x13, 0, 0, 0, 0⟩) (defined 0xFFFFFFFF))) =
      some (.reservedBits 0x00000013) := by decide
theorem test_refused_marks :
    advance (withEvent (.command ⟨0x13, 0, 0, 0, 0⟩) (defined 0xFFFFFFFF)) =
      { defined 0xFFFFFFFF with refused := true } := by decide
/-- Section 2.9: a reserved word is refused before definedness is checked. -/
theorem test_refused_before_fault :
    refusalReason (checkedStep (withEvent (.command ⟨0xD, 0, 0, 0, 0⟩) (undefined 0))) =
      some (.reservedOpcode 0xD) := by decide
/-- Program P5, in the checked step. -/
theorem test_checked_fault :
    faultReason (checkedStep (withEvent (.command ⟨0x3, 0, 0, 0, 0⟩) (undefined 0))) = some (.undefinedW 3) := by
  decide
/-- The step itself goes on with what W holds, marked (log 2). -/
theorem test_unchecked_read_marks :
    (advance (withEvent (.command ⟨0x3, 0, 0, 0, 0⟩) (undefined 0x3FF))).faulted = true := by decide
/-- Programs P8 and P2, in part: the responses of a short run. -/
theorem test_observe :
    observe 2 { undefined 9 with pending := [.command ⟨2, 0xFFFFFFFF, 0, 0, 0⟩, .command ⟨0xC, 0, 0, 0, 0⟩] } =
      [0xFFFFFFFF] := by decide
theorem test_reset_event :
    (advance (withEvent .reset { defined 0x11 with refused := true })).word? = none := by decide

/-! ### Text (R50, R51, R53) -/

theorem test_assemble_decimal :
    assembleLine "SETX 0.5 ; half".toList = .ok (some ⟨0x7, 0x3F000000, 0, 0, 0⟩) := by decide +kernel
theorem test_assemble_operand_count : assembleLine "SETX".toList = .error .operandCount := by decide
/-- The example of R53. -/
theorem test_listing_reserved :
    listing ⟨0x0000000D, 0, 0, 0, 0⟩ = "0000000D 00000000 00000000 00000000 00000000  (reserved)".toList := by
  decide

/-! ### Witnesses: the hypotheses of the statements can be met -/

theorem witness_command_words : (⟨0x3, 1, 2, 3, 4⟩ : Transaction).cmd = 0x00000003 := rfl
theorem witness_every_command_word :
    ∀ n ∈ [1, 2, 3, 4, 5, 6, 7, 8, 9, 10, 11, 12],
      (⟨BitVec.ofNat 32 n, 0, 0, 0, 0⟩ : Transaction).cmd = BitVec.ofNat 32 n := fun _ _ => rfl
theorem witness_defined_word : (defined 0x6A98E1C6).wDefined = true ∧ (defined 0x6A98E1C6).w = 0x6A98E1C6 :=
  ⟨rfl, rfl⟩
theorem witness_worked_examples :
    ((defined 0xFFFFFFFF).wDefined = true ∧ (defined 0xFFFFFFFF).w = 0xFFFFFFFF) ∧
      ((defined 0).wDefined = true ∧ (defined 0).w = 0x00000000) := ⟨⟨rfl, rfl⟩, rfl, rfl⟩
theorem witness_undefined_word : (undefined 1).wDefined = false ∧ readsW .rawval = true := ⟨rfl, rfl⟩
theorem witness_write_completes : exec (.setx 0) (defined 0) = .next (defined 0) := rfl
theorem witness_sety_completes : wordAfter (exec (.sety 0x3F800000) (defined 0)) = some 0x000FFC00 := by decide
theorem witness_setz_completes : wordAfter (exec (.setz 0x3F800000) (defined 0)) = some 0x3FF00000 := by decide
theorem witness_setw_completes : wordAfter (exec (.setw 0x3F800000) (defined 0)) = some 0xC0000000 := by decide
theorem witness_setxyz_completes :
    wordAfter (exec (.setxyz 0x3F800000 0 0) (defined 0xC0000000)) = some 0xC00003FF := by decide
theorem witness_getw_levels :
    (defined 0x00000000).w.extractLsb' 30 2 = 0 ∧ (defined 0x40000000).w.extractLsb' 30 2 = 1 ∧
      (defined 0x80000000).w.extractLsb' 30 2 = 2 ∧ (defined 0xC0000000).w.extractLsb' 30 2 = 3 := by decide
theorem witness_getw_completes :
    responseOf (exec .getw (defined 0x00000000)) = some 0x00000000 ∧
      responseOf (exec .getw (defined 0x40000000)) = some 0x3EAAAAAB ∧
      responseOf (exec .getw (defined 0x80000000)) = some 0x3F2AAAAB ∧
      responseOf (exec .getw (defined 0xC0000000)) = some 0x3F800000 := by decide
theorem witness_three_writes (a b c : Word) :
    (defined 7).wDefined = true ∧ [Instr.setz c, .setx a, .sety b].Perm [.setx a, .sety b, .setz c] :=
  ⟨rfl, (List.perm_append_comm (l₁ := [Instr.setz c]) (l₂ := [.setx a, .sety b]))⟩
theorem witness_unmarked_read :
    (undefined 0).faulted = false ∧
      (advance (withEvent (.command ⟨0xC, 0, 0, 0, 0⟩) (undefined 0))).faulted = true := by decide
theorem witness_defined_command :
    (withEvent (.command ⟨0xC, 0, 0, 0, 0⟩) (defined 8)).pending = .command ⟨0xC, 0, 0, 0, 0⟩ :: [] ∧
      decode ⟨0xC, 0, 0, 0, 0⟩ = .ok .rawval ∧
      (withEvent (.command ⟨0xC, 0, 0, 0, 0⟩) (defined 8)).wDefined = true := ⟨rfl, rfl, rfl⟩
theorem witness_saved_block : (defined 0xD3333466).wDefined = true ∧ [Instr.getx, .setw 0] ≠ [] := ⟨rfl, nofun⟩
theorem witness_frame_clauses :
    writesField (.setx 0) .y = false ∧ hasResponse .getx = true ∧ definesW (.fromraw 0) = true := ⟨rfl, rfl, rfl⟩
theorem witness_step_of_command :
    (withEvent (.command ⟨0x7, 0x3F000000, 0, 0, 0⟩) (defined 1)).pending =
        .command ⟨0x7, 0x3F000000, 0, 0, 0⟩ :: [] ∧
      decode ⟨0x7, 0x3F000000, 0, 0, 0⟩ = .ok (.setx 0x3F000000) := ⟨rfl, rfl⟩
theorem witness_no_event : (defined 3).pending = [] := rfl
theorem witness_reserved_bits : (0x80000001 : Word).extractLsb' 4 28 ≠ 0 := by decide
theorem witness_reserved_opcodes :
    (0x0#32).extractLsb' 4 28 = 0 ∧ (0x0#32).extractLsb' 0 4 ∈ [0x0#4, 0xD#4, 0xE#4, 0xF#4] ∧
      (0xD#32).extractLsb' 4 28 = 0 ∧ (0xD#32).extractLsb' 0 4 ∈ [0x0#4, 0xD#4, 0xE#4, 0xF#4] ∧
      (0xE#32).extractLsb' 4 28 = 0 ∧ (0xE#32).extractLsb' 0 4 ∈ [0x0#4, 0xD#4, 0xE#4, 0xF#4] ∧
      (0xF#32).extractLsb' 4 28 = 0 ∧ (0xF#32).extractLsb' 0 4 ∈ [0x0#4, 0xD#4, 0xE#4, 0xF#4] := by decide
theorem witness_undefined_read :
    (withEvent (.command ⟨0x4, 0, 0, 0, 0⟩) (undefined 0)).pending = .command ⟨0x4, 0, 0, 0, 0⟩ :: [] ∧
      decode ⟨0x4, 0, 0, 0, 0⟩ = .ok .gety ∧ readsW .gety = true ∧
      (withEvent (.command ⟨0x4, 0, 0, 0, 0⟩) (undefined 0)).wDefined = false := ⟨rfl, rfl, rfl, rfl⟩
theorem witness_checked_next : checkedStep (defined 1) = .next (defined 1) := rfl
theorem witness_checked_fault :
    checkedStep (withEvent (.command ⟨0x4, 0, 0, 0, 0⟩) (undefined 0)) = .fault (.undefinedW 4) := rfl
theorem witness_refused :
    step (withEvent (.command ⟨0x10, 0, 0, 0, 0⟩) (defined 0)) = .refused (.reservedBits 0x10) := rfl
theorem witness_sticky_marks :
    (∀ es, (withEvent (.command ⟨0x1, 0, 0, 0, 0⟩) { defined 0 with faulted := true, refused := true }).pending ≠
        HostEvent.reset :: es) ∧
      ({ defined 0 with faulted := true, refused := true } : State).faulted = true ∧
      ({ defined 0 with faulted := true, refused := true } : State).refused = true := ⟨nofun, rfl, rfl⟩
theorem witness_defined_and_no_reset :
    (withEvent (.command ⟨0x9, 0, 0, 0, 0⟩) (defined 1)).wDefined = true ∧
      ∀ es, (withEvent (.command ⟨0x9, 0, 0, 0, 0⟩) (defined 1)).pending ≠ HostEvent.reset :: es := ⟨rfl, nofun⟩
theorem witness_reset_event : (withEvent .reset (defined 2)).pending = .reset :: [] := rfl
theorem witness_canonical : (⟨0xB, 1, 2, 3, 0⟩ : Transaction).canonical = true := by decide
theorem witness_ignored_operands :
    (⟨0x7, 1, 2, 3, 4⟩ : Transaction).cmd.toNat ∈ [2, 7, 8, 9, 10] ∧
      (⟨0xB, 1, 2, 3, 4⟩ : Transaction).cmd.toNat = 11 ∧
      (⟨0xC, 1, 2, 3, 4⟩ : Transaction).cmd.toNat ∈ [3, 4, 5, 6, 12] := by decide
theorem witness_byte_index : (3 : Nat) < 4 ∧ (7 : Nat) < 8 := by decide
theorem witness_word_order : (0x007FFFFF : Word).toNat < (0x00800000 : Word).toNat ∧
    (0x00800000 : Word).toNat < 0x80000000 := by decide
/-- A tie at the boundary of two binades: 2^24 + 1 units lie midway between two data. -/
theorem witness_rounding :
    0 < 1 ∧ 2 ^ 24 + 1 ≤ 1 * magUnits 0x7F7FFFFF ∧ (0x01000001 : Word).toNat < 0x7F800000 ∧
      (0x01000001 : Word) ≠ roundUnits (2 ^ 24 + 1) 1 ∧
      ((1 * magUnits (roundUnits (2 ^ 24 + 1) 1) : Int) - (2 ^ 24 + 1 : Nat)).natAbs =
        ((1 * magUnits 0x01000001 : Int) - (2 ^ 24 + 1 : Nat)).natAbs := by decide
theorem witness_in_range : f32val 0x3F000000 = .finite (2 ^ 148) ∧ (0 : Int) ≤ 2 ^ 148 ∧
    (2 ^ 148 : Int) ≤ (unitsOfOne : Int) := by decide
theorem witness_finite_product : (0x43FFC000 : Word).toNat < 0x7F800000 := by decide
theorem witness_quantizer_ends :
    isNaN 0xFFC00000 = true ∧ F32Val.le (f32val 0x80000000) (.finite 0) = true ∧
      F32Val.le (f32val 0xFF800000) (.finite 0) = true ∧
      F32Val.le (.finite unitsOfOne) (f32val 0x3F800000) = true ∧
      F32Val.le (.finite unitsOfOne) (f32val 0x7F800000) = true := by decide
theorem witness_ordered :
    ((1023 : Nat) = 1023 ∨ (1023 : Nat) = 3) ∧ F32Val.le (f32val 0xFF800000) (f32val 0x3F000000) = true := by decide
theorem witness_levels :
    (((1023 : Nat) = 1023 ∨ (1023 : Nat) = 3) ∧ 1 ≤ 1 ∧ 1 ≤ 1023) ∧
      (((3 : Nat) = 1023 ∨ (3 : Nat) = 3) ∧ 1 ≤ 3 ∧ 3 ≤ 3) := by decide
/-- Section 2.2: both sides of the three thresholds of the 2-bit quantizer. -/
theorem test_two_bit_boundaries :
    q2 0x3E2AAAAA = 0 ∧ q2 0x3E2AAAAB = 1 ∧ q2 0x3EFFFFFF = 1 ∧ q2 0x3F000000 = 2 ∧ q2 0x3F555554 = 2 ∧
      q2 0x3F555555 = 3 := by decide
theorem witness_below_threshold : (0x3F7FDFF7 : Word).toNat < (0x3F7FDFF8 : Word).toNat := by decide
theorem witness_subnormal : f32Exponent 0x807FFFFF = 0 ∧ f32Exponent 0x00000000 = 0 := by decide
theorem witness_two_fields : Field.x ≠ Field.w ∧ 1023 ≤ maxLevel .x ∧ 3 ≤ maxLevel .w := by decide
theorem witness_lower_level : 1022 < 1023 ∧ 1023 ≤ 1023 := by decide
theorem witness_unit_range :
    ((1023 : Nat) = 1023 ∨ (1023 : Nat) = 3) ∧ (0x3F080200 : Word).toNat ≤ 0x3F800000 ∧
      (0x3F800000 : Word).toNat ≤ 0x3F800000 := by decide
theorem witness_response_invariant : ResponseInv (defined 4) ∧ ResponseInv (undefined 4) := by decide
theorem witness_response_invariant_step :
    step (withEvent (.command ⟨2, 5, 0, 0, 0⟩) (undefined 4)) = .next (defined 5) := rfl
theorem witness_boot_rule :
    Clean (undefined 0) ∧
      followsBootRule false [.command ⟨1, 0, 0, 0, 0⟩, .command ⟨3, 0, 0, 0, 0⟩, .reset, .command ⟨2, 9, 0, 0, 0⟩] =
        true := by decide
theorem test_boot_rule_refuses_early_read :
    followsBootRule false [.command ⟨7, 0, 0, 0, 0⟩, .command ⟨1, 0, 0, 0, 0⟩] = false := by decide
theorem witness_unmarked_run :
    (undefined 1).wDefined = false ∧
      (∀ e ∈ [HostEvent.command ⟨2, 6, 0, 0, 0⟩, .command ⟨0xC, 0, 0, 0, 0⟩], e ≠ .reset) ∧
      (runFor 2 { undefined 1 with
        pending := [.command ⟨2, 6, 0, 0, 0⟩, .command ⟨0xC, 0, 0, 0, 0⟩] }).faulted = false := by decide
theorem witness_two_blocks :
    step (#v[withEvent (.command ⟨2, 6, 0, 0, 0⟩) (defined 1), defined 2])[(0 : Fin 2)] = .next (defined 6) ∧
      (1 : Fin 2) ≠ 0 := ⟨rfl, by decide⟩

end Sys2Proof.Tests
end

section
/-! SUPPORT. Memory (20_memory.md): saving and restoring a block by its raw word (R39), and the byte view of a word
(R29). -/

namespace Sys2Proof.Machine

/-! ## What a command makes of a defined W -/

/-- Each command constructs W, responds or writes W, and what it responds or writes is a function of W alone. -/
theorem exec_shape (i : Instr) :
    (∃ v, ∀ s, exec i s = .next (s.construct v)) ∨
    (∃ f : Word → Word, ∀ s, exec i s = .next (s.noteRead.respond (f s.w))) ∨
    (∃ f : Word → Word, ∀ s, exec i s = .next (s.noteRead.store (f s.w))) := by
  cases i with
  | create fx fy fz fw => exact .inl ⟨_, exec_create fx fy fz fw⟩
  | fromraw r => exact .inl ⟨r, exec_fromraw r⟩
  | getx => exact .inr (.inl ⟨fun v => normalize (fieldLevel v .x) 1023, exec_getx⟩)
  | gety => exact .inr (.inl ⟨fun v => normalize (fieldLevel v .y) 1023, exec_gety⟩)
  | getz => exact .inr (.inl ⟨fun v => normalize (fieldLevel v .z) 1023, exec_getz⟩)
  | getw => exact .inr (.inl ⟨fun v => normalize (fieldLevel v .w) 3, exec_getw⟩)
  | rawval => exact .inr (.inl ⟨id, exec_rawval⟩)
  | setx f => exact .inr (.inr ⟨fun v => insertField v .x ((q10 f).setWidth 32), exec_setx f⟩)
  | sety f => exact .inr (.inr ⟨fun v => insertField v .y ((q10 f).setWidth 32), exec_sety f⟩)
  | setz f => exact .inr (.inr ⟨fun v => insertField v .z ((q10 f).setWidth 32), exec_setz f⟩)
  | setw f => exact .inr (.inr ⟨fun v => insertField v .w ((q2 f).setWidth 32), exec_setw f⟩)
  | setxyz fx fy fz => exact .inr (.inr ⟨fun v => insertXYZ v (q10 fx) (q10 fy) (q10 fz), exec_setxyz fx fy fz⟩)

/-- Two states that hold the same defined word; their other fields may differ. -/
structure SameDefinedWord (s t : State) : Prop where
  w_eq : s.w = t.w
  left_defined : s.wDefined = true
  right_defined : t.wDefined = true

/-- One command on two states with the same defined word completes on both, with the same defined word and the same
response. -/
theorem SameDefinedWord.exec {s t : State} (h : SameDefinedWord s t) (i : Instr) :
    ∃ s' t', exec i s = .next s' ∧ exec i t = .next t' ∧ SameDefinedWord s' t' ∧ s'.rsp = t'.rsp := by
  obtain ⟨hw, hs, ht⟩ := h
  obtain ⟨v, hexec⟩ | ⟨f, hexec⟩ | ⟨f, hexec⟩ := exec_shape i
  · exact ⟨_, _, hexec s, hexec t, ⟨rfl, rfl, rfl⟩, rfl⟩
  · exact ⟨_, _, hexec s, hexec t, ⟨hw, hs, ht⟩, by simp [hw]⟩
  · exact ⟨_, _, hexec s, hexec t, ⟨by simp [hw], hs, ht⟩, rfl⟩

/-- The same for a sequence of commands: the responses agree once a command has run, or where they agreed at the
start. -/
theorem SameDefinedWord.execAll {s t : State} (h : SameDefinedWord s t) (is : List Instr) :
    ∃ a b, execAll is s = .next a ∧ execAll is t = .next b ∧ SameDefinedWord a b ∧
      (is ≠ [] ∨ s.rsp = t.rsp → a.rsp = b.rsp) := by
  induction is generalizing s t with
  | nil => exact ⟨s, t, rfl, rfl, h, by simp⟩
  | cons i is ih =>
    obtain ⟨s', t', hs, ht, h', hrsp⟩ := h.exec i
    obtain ⟨a, b, ha, hb, hab, hlast⟩ := ih h'
    exact ⟨a, b, (execAll_cons_of_next hs is).trans ha, (execAll_cons_of_next ht is).trans hb, hab,
      fun _ => hlast (.inr hrsp)⟩

/-- Settles O19: the saved and the restored block hold the same defined word, and a defined word is all that a command
depends on. -/
theorem saveAndRestore : Obligations.SaveAndRestore := by
  intro s s' is hs
  have same : SameDefinedWord (s.noteRead.respond s.w) (s'.construct s.w) := ⟨rfl, hs, rfl⟩
  obtain ⟨a, b, ha, hb, hab, hrsp⟩ := same.execAll is
  exact ⟨_, _, a, b, s.w, exec_rawval s, rfl, exec_fromraw s.w s', ha, hb, hab.w_eq, hab.left_defined,
    hab.right_defined, fun hne => hrsp (.inl hne)⟩

end Sys2Proof.Machine

namespace Sys2Proof

open Sys2Proof.Machine

/-! ## The byte view of a word -/

/-- Bits cut out of bits cut out of a word are bits of the word, where they lie within the first cut. -/
theorem extractLsb'_extractLsb' {w : Nat} (v : BitVec w) {start len off n : Nat} (h : off + n ≤ len) :
    (v.extractLsb' start len).extractLsb' off n = v.extractLsb' (start + off) n := by
  apply BitVec.eq_of_getLsbD_eq
  intro j hj
  have hlen : off + j < len := by omega
  simp [hj, hlen, Nat.add_assoc]

/-- Bit `j` of byte `i` is bit `8 * i + j` of the word. -/
theorem getLsbD_byteOf (v : Word) (i : Nat) {j : Nat} (hj : j < 8) :
    (byteOf v i).getLsbD j = v.getLsbD (8 * i + j) := by
  simp only [byteOf, BitVec.getLsbD_extractLsb', hj, decide_true, Bool.true_and]

/-- Each byte continues the bits below it, so the four bytes of a word give the word back. -/
theorem bytesWord_byteOf (v : Word) : bytesWord (byteOf v 0) (byteOf v 1) (byteOf v 2) (byteOf v 3) = v :=
  calc
    byteOf v 3 ++ byteOf v 2 ++ byteOf v 1 ++ byteOf v 0
      = v.extractLsb' 16 16 ++ byteOf v 1 ++ byteOf v 0 := by
        rw [byteOf, byteOf, BitVec.extractLsb'_append_extractLsb'_eq_extractLsb' (rfl : 8 * 3 = 8 * 2 + 8)]
    _ = v.extractLsb' 8 24 ++ byteOf v 0 := by
        rw [byteOf, BitVec.extractLsb'_append_extractLsb'_eq_extractLsb' (rfl : 16 = 8 * 1 + 8)]
    _ = v.extractLsb' 0 32 := BitVec.extractLsb'_append_extractLsb'_eq_extractLsb' rfl
    _ = v := BitVec.extractLsb'_eq_self

/-- Settles O34: the last three clauses say that a part of a byte and a part of a field are the same bits of the
word. -/
theorem byteViewIsLittleEndian : Obligations.ByteViewIsLittleEndian := by
  intro v
  refine ⟨fun i j _ hj => getLsbD_byteOf v i hj, bytesWord_byteOf v, ?_, ?_, ?_⟩
  · exact (extractLsb'_extractLsb' v (by decide : 0 + 8 ≤ 10)).symm
  · exact extractLsb'_extractLsb' v (by decide : 6 + 2 ≤ 8)
  · exact (extractLsb'_extractLsb' v (by decide : 0 + 6 ≤ 8)).trans
      (extractLsb'_extractLsb' v (by decide : 4 + 6 ≤ 10)).symm

end Sys2Proof
end

section
/-! SUPPORT. Encoding (30_encoding.md): the command word alone decides what the decoder answers (R47). -/

namespace Sys2Proof

/-! ## The fields of the command word as numbers -/

/-- `OP` is the remainder of the command word by 16 (R41). -/
theorem Transaction.toNat_op (t : Transaction) : t.op.toNat = t.cmd.toNat % 16 := by
  simp [Transaction.op]

/-- `RSVD` is 0 just for the command words below 16 (R41). -/
theorem Transaction.rsvd_eq_zero_iff (t : Transaction) : t.rsvd = 0#28 ↔ t.cmd.toNat < 16 := by
  have hdiv : t.rsvd.toNat = t.cmd.toNat / 16 := by
    have hcmd := t.cmd.isLt
    rw [Transaction.rsvd, BitVec.extractLsb'_toNat, Nat.shiftRight_eq_div_pow]
    omega
  rw [← BitVec.toNat_inj, hdiv, BitVec.toNat_ofNat]
  omega

/-- The assigned opcodes are 1 to 12 (R46). -/
theorem Transaction.opAssigned_iff (t : Transaction) :
    t.opAssigned = true ↔ 1 ≤ t.op.toNat ∧ t.op.toNat ≤ 12 := by
  unfold Transaction.opAssigned
  generalize t.op = o
  revert o
  decide

/-- The well-formed command words are 1 to 12 (R46, R48). -/
theorem Transaction.wellFormed_iff (t : Transaction) :
    t.wellFormed = true ↔ 1 ≤ t.cmd.toNat ∧ t.cmd.toNat ≤ 12 := by
  rw [Transaction.wellFormed, Bool.and_eq_true, t.opAssigned_iff, t.toNat_op, Transaction.reservedClear,
    beq_iff_eq, t.rsvd_eq_zero_iff]
  omega

/-! ## What the decoder answers -/

/-- A transaction with a reserved bit set is refused (R48). -/
theorem decode_of_reserved_bits {t : Transaction} (h : t.rsvd ≠ 0#28) :
    decode t = .error (.reservedBits t.cmd) := by
  simp [decode, h]

/-- A transaction whose opcode has no command is refused (R48). -/
theorem decode_of_reserved_opcode {t : Transaction} (hr : t.rsvd = 0#28) (ho : t.opAssigned = false) :
    decode t = .error (.reservedOpcode t.op) := by
  have hop : ¬ (1 ≤ t.op.toNat ∧ t.op.toNat ≤ 12) := by simp [← t.opAssigned_iff, ho]
  rw [decode, if_pos hr]
  split
  case h_13 => rfl
  all_goals omega

/-- A well-formed transaction names the command of its opcode (R46, R47). -/
theorem decode_of_wellFormed {t : Transaction} (h : t.wellFormed = true) :
    ∃ i, decode t = .ok i ∧ opcode i = t.op := by
  obtain ⟨hr, ho⟩ : t.rsvd = 0#28 ∧ t.opAssigned = true := by
    simpa [Transaction.wellFormed, Transaction.reservedClear] using h
  obtain ⟨hlo, hhi⟩ := t.opAssigned_iff.mp ho
  rw [decode, if_pos hr]
  generalize hn : t.op.toNat = n at hlo hhi ⊢
  interval_cases n
  all_goals exact ⟨_, rfl, (BitVec.eq_of_toNat_eq hn).symm⟩

/-- A transaction that is not well-formed is refused, for a reason that the command word alone gives (R48). -/
theorem decode_of_not_wellFormed {t : Transaction} (h : t.wellFormed = false) :
    decode t = .error (if t.rsvd = 0#28 then .reservedOpcode t.op else .reservedBits t.cmd) := by
  by_cases hr : t.rsvd = 0#28
  · rw [if_pos hr]
    exact decode_of_reserved_opcode hr (by simpa [Transaction.wellFormed, Transaction.reservedClear, hr] using h)
  · rw [if_neg hr]
    exact decode_of_reserved_bits hr

/-- The opcode or the refusal that the decoder gives, as a function of the command word's fields alone (R47, R48). -/
theorem decode_map_opcode (t : Transaction) :
    (decode t).map opcode =
      if t.wellFormed then .ok t.op
      else .error (if t.rsvd = 0#28 then .reservedOpcode t.op else .reservedBits t.cmd) := by
  split
  · next h =>
    obtain ⟨i, hi, hop⟩ := decode_of_wellFormed h
    rw [hi, Except.map, hop]
  · next h => rw [decode_of_not_wellFormed (by simpa using h), Except.map]

/-- The decoder names a command for the well-formed transactions and for no others (R47, R48). -/
theorem exists_decode_ok_iff (t : Transaction) : (∃ i, decode t = .ok i) ↔ t.wellFormed = true := by
  refine ⟨fun ⟨i, hi⟩ => ?_, fun h => ?_⟩
  · by_contra hw
    simp [decode_of_not_wellFormed (by simpa using hw)] at hi
  · obtain ⟨i, hi, -⟩ := decode_of_wellFormed h
    exact ⟨i, hi⟩

/-- The command named is the one of the opcode field (R46, R47). -/
theorem opcode_of_decode_ok {t : Transaction} {i : Instr} (hi : decode t = .ok i) : opcode i = t.op := by
  obtain ⟨j, hj, hop⟩ := decode_of_wellFormed ((exists_decode_ok_iff t).mp ⟨i, hi⟩)
  obtain rfl : i = j := Except.ok.inj (hi.symm.trans hj)
  exact hop

/-- Settles O30: the well-formed command words are 1 to 12, and what the decoder answers, up to the operands, is a
function of the command word's fields. -/
theorem decoderNamesTwelveWords : Obligations.DecoderNamesTwelveWords := by
  refine ⟨fun t => ?_, fun t i => opcode_of_decode_ok, fun t u hcmd => ?_⟩
  · rw [exists_decode_ok_iff, t.wellFormed_iff]
  · cases t
    cases u
    cases hcmd
    rw [decode_map_opcode, decode_map_opcode]
    rfl

end Sys2Proof
end

section
/-! SUPPORT. Packing (40_datapath.md, R66 to R69): a word is the levels of its four fields, and an insert replaces one
of them. -/

namespace Sys2Proof.Machine

/-- The packer's four shifted levels do not overlap: the word is `w`, `z`, `y`, `x` set side by side (R66). -/
theorem pack_eq_append (x y z : Level10) (w : Level2) : pack x y z w = (w ++ z ++ y ++ x : BitVec 32) := by
  apply BitVec.eq_of_toNat_eq
  have hw : w.toNat <<< 30 < 2 ^ 32 := by rw [Nat.shiftLeft_eq]; omega
  have hz : z.toNat <<< 20 < 2 ^ 32 := by rw [Nat.shiftLeft_eq]; omega
  have hy : y.toNat <<< 10 < 2 ^ 32 := by rw [Nat.shiftLeft_eq]; omega
  simp only [pack, BitVec.toNat_or, BitVec.toNat_shiftLeft, BitVec.toNat_append,
    BitVec.toNat_setWidth_of_le (by decide : 10 ≤ 32), BitVec.toNat_setWidth_of_le (by decide : 2 ≤ 32),
    Nat.shiftLeft_or_distrib, ← Nat.shiftLeft_add,
    Nat.mod_eq_of_lt hw, Nat.mod_eq_of_lt hz, Nat.mod_eq_of_lt hy]

/-- Each field of a packed word is the level that was packed (R69). -/
theorem unpack_pack (x y z : Level10) (w : Level2) : unpack (pack x y z w) = (x, y, z, w) := by
  rw [pack_eq_append, unpack]
  refine Prod.ext ?_ (Prod.ext ?_ (Prod.ext ?_ ?_))
  · exact BitVec.extractLsb'_append_eq_right
  · exact (BitVec.extractLsb'_append_eq_of_le (by decide)).trans BitVec.extractLsb'_append_eq_right
  · exact (BitVec.extractLsb'_append_eq_of_le (by decide)).trans
      ((BitVec.extractLsb'_append_eq_of_le (by decide)).trans BitVec.extractLsb'_append_eq_right)
  · exact (BitVec.extractLsb'_append_eq_of_le (by decide)).trans
      ((BitVec.extractLsb'_append_eq_of_le (by decide)).trans BitVec.extractLsb'_append_eq_left)

/-- Each field's bits continue the bits below it, so packing the four fields of a word gives the word back (R69). -/
theorem pack_unpack (v : Word) : pack (unpack v).1 (unpack v).2.1 (unpack v).2.2.1 (unpack v).2.2.2 = v := by
  rw [pack_eq_append, unpack]
  calc
    v.extractLsb' 30 2 ++ v.extractLsb' 20 10 ++ v.extractLsb' 10 10 ++ v.extractLsb' 0 10
      = v.extractLsb' 20 12 ++ v.extractLsb' 10 10 ++ v.extractLsb' 0 10 := by
        rw [BitVec.extractLsb'_append_extractLsb'_eq_extractLsb' (rfl : 30 = 20 + 10)]
    _ = v.extractLsb' 10 22 ++ v.extractLsb' 0 10 := by
        rw [BitVec.extractLsb'_append_extractLsb'_eq_extractLsb' (rfl : 20 = 10 + 10)]
    _ = v.extractLsb' 0 32 := BitVec.extractLsb'_append_extractLsb'_eq_extractLsb' rfl
    _ = v := BitVec.extractLsb'_eq_self

/-- A word is determined by the levels of its four fields. -/
theorem eq_of_fieldLevel_eq {u v : Word} (h : ∀ f, fieldLevel u f = fieldLevel v f) : u = v := by
  have hunpack : unpack u = unpack v :=
    Prod.ext (BitVec.eq_of_toNat_eq (h .x)) (Prod.ext (BitVec.eq_of_toNat_eq (h .y))
      (Prod.ext (BitVec.eq_of_toNat_eq (h .z)) (BitVec.eq_of_toNat_eq (h .w))))
  rw [← pack_unpack u, hunpack, pack_unpack]

/-- The width of a field (R14). -/
def fieldWidth : Field → Nat
  | .x => 10
  | .y => 10
  | .z => 10
  | .w => 2

theorem maxLevel_lt (f : Field) : maxLevel f < 2 ^ fieldWidth f := by
  cases f <;> decide

/-- The level of a field is the number that the field's bits write (R67). -/
theorem fieldLevel_eq (v : Word) (f : Field) :
    fieldLevel v f = (v.extractLsb' (fieldOff f) (fieldWidth f)).toNat := by
  cases f <;> rfl

/-- `MASK(f)` has its ones on the bits of the field (R68). -/
theorem getLsbD_fieldMask (f : Field) {i : Nat} (hi : i < 32) :
    (fieldMask f).getLsbD i = decide (fieldOff f ≤ i ∧ i < fieldOff f + fieldWidth f) := by
  revert i
  cases f <;> decide

theorem fieldEnd_le (f : Field) : fieldOff f + fieldWidth f ≤ 32 := by
  cases f <;> decide

/-- Bit `i` after an insert: a bit of the level inside the field, the old bit outside (R68). -/
theorem getLsbD_insertField (v : Word) (f : Field) {k : Nat} (hk : k ≤ maxLevel f) {i : Nat} (hi : i < 32) :
    (insertField v f (BitVec.ofNat 32 k)).getLsbD i =
      if fieldOff f ≤ i ∧ i < fieldOff f + fieldWidth f then k.testBit (i - fieldOff f) else v.getLsbD i := by
  simp only [insertField, BitVec.getLsbD_or, BitVec.getLsbD_and, BitVec.getLsbD_not, BitVec.getLsbD_shiftLeft,
    BitVec.getLsbD_ofNat, getLsbD_fieldMask f hi, hi, decide_true, Bool.true_and]
  by_cases hlo : i < fieldOff f
  · simp [hlo, Nat.not_le.mpr hlo]
  by_cases hhi : i < fieldOff f + fieldWidth f
  · have h32 : i - fieldOff f < 32 := by omega
    simp [hlo, hhi, Nat.not_lt.mp hlo, h32]
  · have hbit : k.testBit (i - fieldOff f) = false :=
      Nat.testBit_lt_two_pow (hk.trans_lt ((maxLevel_lt f).trans_le (Nat.pow_le_pow_right (by decide) (by omega))))
    simp [hhi, hbit]

theorem fieldLevel_insertField_same (v : Word) (f : Field) {k : Nat} (hk : k ≤ maxLevel f) :
    fieldLevel (insertField v f (BitVec.ofNat 32 k)) f = k := by
  have hlt : k < 2 ^ fieldWidth f := hk.trans_lt (maxLevel_lt f)
  have hend := fieldEnd_le f
  have hbits : (insertField v f (BitVec.ofNat 32 k)).extractLsb' (fieldOff f) (fieldWidth f) =
      BitVec.ofNat (fieldWidth f) k := by
    apply BitVec.eq_of_getLsbD_eq
    intro i hi
    have h32 : fieldOff f + i < 32 := by omega
    rw [BitVec.getLsbD_extractLsb', getLsbD_insertField v f hk h32, BitVec.getLsbD_ofNat]
    simp [hi]
  rw [fieldLevel_eq, hbits, BitVec.toNat_ofNat, Nat.mod_eq_of_lt hlt]

/-- Two fields share no bit (R14). -/
theorem field_disjoint {f g : Field} (h : g ≠ f) :
    fieldOff g + fieldWidth g ≤ fieldOff f ∨ fieldOff f + fieldWidth f ≤ fieldOff g := by
  revert h
  cases f <;> cases g <;> decide

theorem fieldLevel_insertField_other (v : Word) {f g : Field} (h : g ≠ f) {k : Nat} (hk : k ≤ maxLevel f) :
    fieldLevel (insertField v f (BitVec.ofNat 32 k)) g = fieldLevel v g := by
  have hend := fieldEnd_le g
  have hbits : (insertField v f (BitVec.ofNat 32 k)).extractLsb' (fieldOff g) (fieldWidth g) =
      v.extractLsb' (fieldOff g) (fieldWidth g) := by
    apply BitVec.eq_of_getLsbD_eq
    intro i hi
    have h32 : fieldOff g + i < 32 := by omega
    have hout : ¬ (fieldOff f ≤ fieldOff g + i ∧ fieldOff g + i < fieldOff f + fieldWidth f) := by
      have := field_disjoint h
      omega
    simp only [BitVec.getLsbD_extractLsb', getLsbD_insertField v f hk h32, if_neg hout]
  rw [fieldLevel_eq, fieldLevel_eq, hbits]

/-- An insert replaces the level of its field and of no other (R69). -/
theorem fieldLevel_insertField (v : Word) (f g : Field) {k : Nat} (hk : k ≤ maxLevel f) :
    fieldLevel (insertField v f (BitVec.ofNat 32 k)) g = if g = f then k else fieldLevel v g := by
  split
  · next h => exact h ▸ fieldLevel_insertField_same v f hk
  · next h => exact fieldLevel_insertField_other v h hk

/-- Inserts into different fields commute: both orders leave the same four levels (R69). -/
theorem insertField_comm (v : Word) {f g : Field} (h : f ≠ g) {j k : Nat} (hj : j ≤ maxLevel f)
    (hk : k ≤ maxLevel g) :
    insertField (insertField v f (BitVec.ofNat 32 j)) g (BitVec.ofNat 32 k) =
      insertField (insertField v g (BitVec.ofNat 32 k)) f (BitVec.ofNat 32 j) := by
  apply eq_of_fieldLevel_eq
  intro e
  rw [fieldLevel_insertField _ g e hk, fieldLevel_insertField _ f e hj, fieldLevel_insertField _ f e hj,
    fieldLevel_insertField _ g e hk]
  by_cases he : e = g
  · simp [he, h.symm]
  · simp [he]

/-- The mask that `SETXYZ` keeps is that of `w`: it leaves the level of `w` in its place and zeros elsewhere. -/
theorem and_fieldMask_w (v : Word) : v &&& fieldMask .w = (v.extractLsb' 30 2).setWidth 32 <<< 30 := by
  apply BitVec.eq_of_getLsbD_eq
  intro i hi
  rw [BitVec.getLsbD_and, getLsbD_fieldMask .w hi, BitVec.getLsbD_shiftLeft, BitVec.getLsbD_setWidth,
    BitVec.getLsbD_extractLsb', fieldOff, fieldWidth]
  by_cases hlo : i < 30
  · simp [hlo]
  · have hpos : 30 + (i - 30) = i := by omega
    simp [hi, hlo, hpos, (by omega : 30 ≤ i), (by omega : i - 30 < 2), (by omega : i - 30 < 32)]

/-- The three-field form is a packing of the three new levels and the kept `w` (R68). -/
theorem insertXYZ_eq_pack (v : Word) (x y z : Level10) :
    insertXYZ v x y z = pack x y z (unpack v).2.2.2 := by
  change (v &&& fieldMask .w) ||| pack x y z 0 = _
  rw [and_fieldMask_w, pack, pack, unpack]
  simp [BitVec.or_assoc]

/-- The three-field form is the three inserts: both leave the same four levels (R69). -/
theorem insertXYZ_eq_inserts (v : Word) (x y z : Level10) :
    insertXYZ v x y z =
      insertField (insertField (insertField v .x (x.setWidth 32)) .y (y.setWidth 32)) .z (z.setWidth 32) := by
  have hmax (k : Level10) : k.toNat ≤ 1023 := Nat.le_of_lt_succ k.isLt
  simp only [← BitVec.ofNat_toNat]
  apply eq_of_fieldLevel_eq
  intro f
  rw [insertXYZ_eq_pack, fieldLevel_insertField _ .z f (hmax z), fieldLevel_insertField _ .y f (hmax y),
    fieldLevel_insertField _ .x f (hmax x)]
  cases f <;> simp [fieldLevel, unpack_pack]

/-- Settles O49: the law of one insert, level by level, gives the last two laws, since a word is its four levels. -/
theorem packingLaws : Obligations.PackingLaws :=
  ⟨unpack_pack, pack_unpack, fun v f g _ => fieldLevel_insertField v f g,
    fun v _ _ _ _ h => insertField_comm v h, insertXYZ_eq_inserts⟩

end Sys2Proof.Machine
end

section
/-! SUPPORT. Binary32 (R9): the word order and the order of magnitudes, and what `roundUnits` does: it is exact on data,
monotone, and off by at most half a unit in the last place. -/

namespace Sys2Proof.Machine

/-! ## The fields of a word as numbers -/

theorem f32Exponent_eq (b : Word) : f32Exponent b = b.toNat / 2 ^ 23 % 2 ^ 8 := by
  rw [f32Exponent, BitVec.extractLsb'_toNat, Nat.shiftRight_eq_div_pow]

theorem f32Fraction_eq (b : Word) : f32Fraction b = b.toNat % 2 ^ 23 := by
  rw [f32Fraction, BitVec.extractLsb'_toNat, Nat.shiftRight_zero]

/-- A word with sign bit 0 is its exponent field followed by its fraction (R9). -/
theorem toNat_eq_exponent_fraction {b : Word} (hb : b.toNat < 2 ^ 31) :
    b.toNat = 2 ^ 23 * f32Exponent b + f32Fraction b := by
  rw [f32Exponent_eq, f32Fraction_eq]
  omega

theorem f32Fraction_lt (b : Word) : f32Fraction b < 2 ^ 23 := by
  rw [f32Fraction_eq]
  exact Nat.mod_lt _ (by decide)

/-! ## Magnitudes -/

theorem magUnits_of_exponent_zero {b : Word} (h : f32Exponent b = 0) : magUnits b = f32Fraction b := by
  rw [magUnits, if_pos h]

theorem magUnits_of_exponent_succ {b : Word} {k : Nat} (h : f32Exponent b = k + 1) :
    magUnits b = (2 ^ 23 + f32Fraction b) * 2 ^ k := by
  rw [magUnits, if_neg (by omega), h, Nat.add_sub_cancel]

/-- A datum with exponent field `e` lies below 2^(23+e) units. -/
theorem magUnits_lt_two_pow (b : Word) : magUnits b < 2 ^ (23 + f32Exponent b) := by
  have hf := f32Fraction_lt b
  cases h : f32Exponent b with
  | zero => rwa [magUnits_of_exponent_zero h]
  | succ k =>
    calc
      magUnits b = (2 ^ 23 + f32Fraction b) * 2 ^ k := magUnits_of_exponent_succ h
      _ < 2 ^ 24 * 2 ^ k := Nat.mul_lt_mul_of_pos_right (by omega) (by positivity)
      _ = 2 ^ (23 + (k + 1)) := by ring

/-- A datum with exponent field `k + 1` is at least 2^(23+k) units. -/
theorem two_pow_le_magUnits {b : Word} {k : Nat} (h : f32Exponent b = k + 1) : 2 ^ (23 + k) ≤ magUnits b := by
  rw [magUnits_of_exponent_succ h, pow_add]
  exact Nat.mul_le_mul_right _ (Nat.le_add_right _ _)

/-- Among words with sign bit 0 a larger word has a larger magnitude (R9): a larger exponent field outweighs any
fraction, and under equal exponent fields the fractions decide. -/
theorem magUnits_lt_magUnits {a b : Word} (hb : b.toNat < 2 ^ 31) (hab : a.toNat < b.toNat) :
    magUnits a < magUnits b := by
  have ha := toNat_eq_exponent_fraction (hab.trans hb)
  have hb := toNat_eq_exponent_fraction hb
  have hfa := f32Fraction_lt a
  have hfb := f32Fraction_lt b
  obtain hlt | heq : f32Exponent a < f32Exponent b ∨ f32Exponent a = f32Exponent b := by omega
  · obtain ⟨k, hk⟩ := Nat.exists_eq_add_of_lt hlt
    calc
      magUnits a < 2 ^ (23 + f32Exponent a) := magUnits_lt_two_pow a
      _ ≤ 2 ^ (23 + (f32Exponent a + k)) := Nat.pow_le_pow_right (by decide) (by omega)
      _ ≤ magUnits b := two_pow_le_magUnits hk
  · have hfrac : f32Fraction a < f32Fraction b := by omega
    cases h : f32Exponent b with
    | zero => rwa [magUnits_of_exponent_zero h, magUnits_of_exponent_zero (heq.trans h)]
    | succ k =>
      rw [magUnits_of_exponent_succ h, magUnits_of_exponent_succ (heq.trans h)]
      exact Nat.mul_lt_mul_of_pos_right (by omega) (by positivity)

theorem magUnits_le_magUnits {a b : Word} (hb : b.toNat < 2 ^ 31) (hab : a.toNat ≤ b.toNat) :
    magUnits a ≤ magUnits b := by
  obtain hlt | heq := hab.lt_or_eq
  · exact (magUnits_lt_magUnits hb hlt).le
  · rw [BitVec.eq_of_toNat_eq heq]

/-! ## Rounding a quotient to an integer -/

/-- The rounded quotient is the quotient, with a remainder of at most half the divisor, or the next integer, with a
remainder of at least that. -/
theorem divHalfEven_cases (n d : Nat) :
    (divHalfEven n d = n / d ∧ 2 * (n % d) ≤ d) ∨ (divHalfEven n d = n / d + 1 ∧ d ≤ 2 * (n % d)) := by
  simp only [divHalfEven]
  split_ifs <;> omega

theorem div_le_divHalfEven (n d : Nat) : n / d ≤ divHalfEven n d := by
  have := divHalfEven_cases n d
  omega

theorem divHalfEven_le (n d : Nat) : divHalfEven n d ≤ n / d + 1 := by
  have := divHalfEven_cases n d
  omega

/-- Rounding a multiple of the divisor gives the quotient. -/
theorem divHalfEven_mul_left {d : Nat} (hd : 0 < d) (q : Nat) : divHalfEven (d * q) d = q := by
  simp [divHalfEven, hd]

/-- The rounded quotient is off by at most one half. -/
theorem divHalfEven_error (n : Nat) {d : Nat} (hd : 0 < d) :
    2 * ((divHalfEven n d * d : Int) - n).natAbs ≤ d := by
  have hmod := Nat.mod_lt n hd
  have hdiv : (n : Int) = (n / d : Nat) * d + (n % d : Nat) := by
    rw [mul_comm]
    exact_mod_cast (Nat.div_add_mod n d).symm
  obtain ⟨hq, hr⟩ | ⟨hq, hr⟩ := divHalfEven_cases n d
  · have herr : (divHalfEven n d * d : Int) - n = -(n % d : Nat) := by
      rw [hq, hdiv]
      ring
    omega
  · have herr : (divHalfEven n d * d : Int) - n = d - (n % d : Nat) := by
      rw [hq, hdiv, Nat.cast_succ]
      ring
    omega

/-- A larger dividend does not round to a smaller integer. -/
theorem divHalfEven_mono {n₁ n₂ : Nat} (h : n₁ ≤ n₂) (d : Nat) : divHalfEven n₁ d ≤ divHalfEven n₂ d := by
  obtain hlt | heq := (Nat.div_le_div_right (c := d) h).lt_or_eq
  · exact (divHalfEven_le n₁ d).trans (hlt.trans_le (div_le_divHalfEven n₂ d))
  · have hmod : n₁ % d ≤ n₂ % d := by
      have h₁ := Nat.div_add_mod n₁ d
      have h₂ := Nat.div_add_mod n₂ d
      rw [heq] at h₁
      omega
    simp only [divHalfEven, heq]
    split_ifs <;> omega

/-! ## The binade of a quotient -/

theorem lt_two_pow_excessBits (q : Nat) : q < 2 ^ (24 + excessBits q) :=
  Nat.lt_log2_self.trans_le (Nat.pow_le_pow_right (by decide) (by unfold excessBits; omega))

theorem two_pow_le_of_excessBits_pos {q : Nat} (h : 0 < excessBits q) : 2 ^ (23 + excessBits q) ≤ q := by
  have hq : q ≠ 0 := by
    rintro rfl
    simp [excessBits] at h
  exact (Nat.le_log2 hq).mp (by unfold excessBits at *; omega)

theorem excessBits_mono {p q : Nat} (h : p ≤ q) : excessBits p ≤ excessBits q := by
  rw [excessBits, excessBits, Nat.log2_eq_log_two, Nat.log2_eq_log_two]
  exact Nat.sub_le_sub_right (Nat.log_mono_right h) 23

/-- A number of up to 24 significant bits has no excess bits. -/
theorem excessBits_eq_zero {q : Nat} (h : q < 2 ^ 24) : excessBits q = 0 := by
  by_contra hk
  have hle : 2 ^ 24 ≤ 2 ^ (23 + excessBits q) := Nat.pow_le_pow_right (by decide) (by omega)
  exact absurd (hle.trans (two_pow_le_of_excessBits_pos (Nat.pos_of_ne_zero hk))) (Nat.not_le.mpr h)

theorem excessBits_eq {q k : Nat} (hlo : 2 ^ (23 + k) ≤ q) (hhi : q < 2 ^ (24 + k)) : excessBits q = k := by
  have hq : q ≠ 0 := (lt_of_lt_of_le (by positivity) hlo).ne'
  have hhi' : q < 2 ^ (23 + k + 1) := by rwa [Nat.add_right_comm]
  rw [excessBits, (Nat.log2_eq_iff hq).mpr ⟨hlo, hhi'⟩, Nat.add_sub_cancel_left]

/-! ## The rounded significand -/

/-- The significand that `roundUnits n d` rounds to, in units of 2^k, with `k` the excess bits of the quotient. -/
def roundedSig (n d : Nat) : Nat := divHalfEven n (d * 2 ^ excessBits (n / d))

theorem toNat_roundUnits (n d : Nat) :
    (roundUnits n d).toNat = min (2 ^ 23 * excessBits (n / d) + roundedSig n d) 0x7F800000 := by
  rw [roundUnits, BitVec.toNat_ofNat, roundedSig]
  exact Nat.mod_eq_of_lt (by omega)

theorem roundedSig_le (n d : Nat) : roundedSig n d ≤ 2 ^ 24 := by
  refine (divHalfEven_le _ _).trans ?_
  rw [← Nat.div_div_eq_div_mul]
  refine Nat.div_lt_of_lt_mul ?_
  rw [← pow_add, add_comm]
  exact lt_two_pow_excessBits _

theorem le_roundedSig {n d : Nat} (h : 0 < excessBits (n / d)) : 2 ^ 23 ≤ roundedSig n d := by
  refine le_trans ?_ (div_le_divHalfEven _ _)
  rw [← Nat.div_div_eq_div_mul, Nat.le_div_iff_mul_le (by positivity), ← pow_add]
  exact two_pow_le_of_excessBits_pos h

/-- The word that `roundUnits` builds from `k` and a significand `r` is the datum `r` × 2^k units, and `r` counts
units of at most its last place. -/
theorem magUnits_of_significand {b : Word} {k r : Nat} (hb : b.toNat = 2 ^ 23 * k + r) (hfin : b.toNat < 0x7F800000)
    (hr : r ≤ 2 ^ 24) (hk : 0 < k → 2 ^ 23 ≤ r) : magUnits b = r * 2 ^ k ∧ k ≤ f32Exponent b - 1 := by
  have he := f32Exponent_eq b
  have hf := f32Fraction_eq b
  obtain hsub | ⟨hnorm, hlt⟩ | hcarry : r < 2 ^ 23 ∨ (2 ^ 23 ≤ r ∧ r < 2 ^ 24) ∨ r = 2 ^ 24 := by omega
  · obtain rfl : k = 0 := by omega
    have hexp : f32Exponent b = 0 := by omega
    refine ⟨?_, Nat.zero_le _⟩
    rw [magUnits_of_exponent_zero hexp, pow_zero, mul_one]
    omega
  · have hexp : f32Exponent b = k + 1 := by omega
    have hfrac : 2 ^ 23 + f32Fraction b = r := by omega
    exact ⟨by rw [magUnits_of_exponent_succ hexp, hfrac], by omega⟩
  · have hexp : f32Exponent b = (k + 1) + 1 := by omega
    have hfrac : f32Fraction b = 0 := by omega
    refine ⟨?_, by omega⟩
    rw [magUnits_of_exponent_succ hexp, hfrac, hcarry]
    ring

/-! ## Rounding to binary32 -/

/-- What a rounding below infinity is: the rounded significand in units of 2^k, with `k` at most the last place's
exponent. -/
theorem magUnits_roundUnits {n d : Nat} (hfin : (roundUnits n d).toNat < 0x7F800000) :
    magUnits (roundUnits n d) = roundedSig n d * 2 ^ excessBits (n / d) ∧
      excessBits (n / d) ≤ f32Exponent (roundUnits n d) - 1 :=
  magUnits_of_significand (by have := toNat_roundUnits n d; omega) hfin (roundedSig_le n d) le_roundedSig

/-- Rounding is off by at most half a unit in the last place of its result (R9). -/
theorem roundUnits_error (n : Nat) {d : Nat} (hd : 0 < d) (hfin : (roundUnits n d).toNat < 0x7F800000) :
    2 * ((magUnits (roundUnits n d) * d : Int) - n).natAbs ≤ d * 2 ^ (f32Exponent (roundUnits n d) - 1) := by
  obtain ⟨hmag, hexp⟩ := magUnits_roundUnits hfin
  have hscaled : (magUnits (roundUnits n d) * d : Int) =
      roundedSig n d * (d * 2 ^ excessBits (n / d) : Nat) := by
    rw [hmag]
    push_cast
    ring
  calc
    2 * ((magUnits (roundUnits n d) * d : Int) - n).natAbs ≤ d * 2 ^ excessBits (n / d) := by
      rw [hscaled]
      exact divHalfEven_error n (by positivity)
    _ ≤ d * 2 ^ (f32Exponent (roundUnits n d) - 1) :=
      Nat.mul_le_mul_left _ (Nat.pow_le_pow_right (by decide) hexp)

/-- Rounding is monotone (R9): within a binade the significands are, and the carry out of a binade's significand is
the least word of the next one. -/
theorem roundUnits_mono {n₁ n₂ : Nat} (h : n₁ ≤ n₂) (d : Nat) :
    (roundUnits n₁ d).toNat ≤ (roundUnits n₂ d).toNat := by
  rw [toNat_roundUnits, toNat_roundUnits]
  refine min_le_min_right _ ?_
  obtain hlt | heq := (excessBits_mono (Nat.div_le_div_right (c := d) h)).lt_or_eq
  · have h₁ := roundedSig_le n₁ d
    have h₂ := le_roundedSig (Nat.zero_lt_of_lt hlt)
    omega
  · rw [roundedSig, roundedSig, heq]
    exact Nat.add_le_add_left (divHalfEven_mono h _) _

/-- Rounding the value of a datum gives the datum (R9). -/
theorem roundUnits_magUnits {b : Word} (hb : b.toNat ≤ 0x7F800000) {d : Nat} (hd : 0 < d) :
    roundUnits (d * magUnits b) d = b := by
  apply BitVec.eq_of_toNat_eq
  rw [toNat_roundUnits, roundedSig, Nat.mul_div_cancel_left _ hd]
  have hword := toNat_eq_exponent_fraction (b := b) (by omega)
  have hf := f32Fraction_lt b
  cases he : f32Exponent b with
  | zero =>
    rw [magUnits_of_exponent_zero he, excessBits_eq_zero (by omega), pow_zero, mul_one, divHalfEven_mul_left hd]
    omega
  | succ k =>
    have hk : excessBits (magUnits b) = k := by
      refine excessBits_eq (two_pow_le_magUnits he) ((magUnits_lt_two_pow b).trans_eq ?_)
      rw [he]
      ring
    rw [hk, magUnits_of_exponent_succ he, mul_left_comm, mul_comm _ (d * 2 ^ k),
      divHalfEven_mul_left (by positivity)]
    omega

/-- A value at most that of a datum does not round past it. -/
theorem roundUnits_le {n d : Nat} {b : Word} (hd : 0 < d) (hb : b.toNat ≤ 0x7F800000) (h : n ≤ d * magUnits b) :
    (roundUnits n d).toNat ≤ b.toNat :=
  (roundUnits_mono h d).trans_eq (by rw [roundUnits_magUnits hb hd])

/-- A value at least that of a datum does not round below it. -/
theorem le_roundUnits {n d : Nat} {b : Word} (hd : 0 < d) (hb : b.toNat ≤ 0x7F800000) (h : d * magUnits b ≤ n) :
    b.toNat ≤ (roundUnits n d).toNat :=
  (roundUnits_mono h d).trans_eq' (by rw [roundUnits_magUnits hb hd])

end Sys2Proof.Machine
end

section
/-! SUPPORT. The datapath (40_datapath.md): clamper, converter, quantizers and normaliser (R56 to R64, R70, R71). -/

namespace Sys2Proof.Machine

theorem unitsOfOne_pos : 0 < unitsOfOne := by decide

theorem magUnits_one : magUnits 0x3F800000 = unitsOfOne := by decide

/-! ## The clamper -/

/-- A datum whose value lies in [0, 1] passes unchanged (R58). -/
theorem clamp01_of_range {b : Word} {u : Int} (hb : f32val b = .finite u) (h0 : 0 ≤ u) (h1 : u ≤ unitsOfOne) :
    clamp01 b = b := by
  rw [clamp01, hb]
  exact (if_neg h0.not_gt).trans (if_neg h1.not_gt)

/-- The clamper gives +0.0, 1.0, or its input where that lies in [0, 1] (R56). -/
theorem clamp01_cases (b : Word) :
    clamp01 b = 0x00000000 ∨ clamp01 b = 0x3F800000 ∨
      (clamp01 b = b ∧ ∃ u, f32val b = .finite u ∧ 0 ≤ u ∧ u ≤ (unitsOfOne : Int)) := by
  cases hb : f32val b with
  | nan => exact .inl (by rw [clamp01, hb])
  | inf negative =>
    cases negative with
    | false => exact .inr (.inl (by rw [clamp01, hb]))
    | true => exact .inl (by rw [clamp01, hb])
  | finite u =>
    by_cases h0 : u < 0
    · exact .inl (by rw [clamp01, hb]; exact if_pos h0)
    by_cases h1 : (unitsOfOne : Int) < u
    · exact .inr (.inl (by rw [clamp01, hb]; exact (if_neg h0).trans (if_pos h1)))
    · exact .inr (.inr ⟨clamp01_of_range hb (not_lt.mp h0) (not_lt.mp h1), u, rfl, not_lt.mp h0, not_lt.mp h1⟩)

/-- A clamped value is finite and lies in [0, 1] (R58). -/
theorem clamp01_range (b : Word) : ∃ u, f32val (clamp01 b) = .finite u ∧ 0 ≤ u ∧ u ≤ (unitsOfOne : Int) := by
  obtain h | h | ⟨h, hrange⟩ := clamp01_cases b
  · exact ⟨0, by rw [h]; decide, le_rfl, by decide⟩
  · exact ⟨unitsOfOne, by rw [h]; decide, by decide, le_rfl⟩
  · rwa [h]

/-- Settles O40: a clamped value lies in the range on which the clamper changes nothing. -/
theorem clamperProperties : Obligations.ClamperProperties := by
  refine ⟨by decide, by decide, fun b => ⟨clamp01_range b, ?_⟩, fun b u => clamp01_of_range⟩
  obtain ⟨u, hu, h0, h1⟩ := clamp01_range b
  exact clamp01_of_range hu h0 h1

/-! ## The round-to-integer converter -/

/-- Settles O42: over the common denominator 2^150 the value plus one half is the quotient whose floor the converter
takes. -/
theorem converterIsFloorOfValuePlusHalf : Obligations.ConverterIsFloorOfValuePlusHalf := by
  refine ⟨fun p _ => ?_, by decide⟩
  have hone : (unitsOfOne : Rat) ≠ 0 := Nat.cast_ne_zero.mpr unitsOfOne_pos.ne'
  have hvalue : f32rat p + 1 / 2 = (unitsOfOne + 2 * magUnits p : Nat) / (2 * unitsOfOne : Nat) := by
    push_cast [f32rat]
    field_simp
    ring
  rw [hvalue, Rat.floor_natCast_div_natCast, roundHalfAway, Int.natCast_ediv]

/-- A value of at most `m` converts to at most `m` (R61). -/
theorem roundHalfAway_le {p : Word} {m : Nat} (h : magUnits p ≤ m * unitsOfOne) : roundHalfAway p ≤ m := by
  rw [roundHalfAway, ← Nat.lt_succ_iff, Nat.div_lt_iff_lt_mul (by decide)]
  unfold unitsOfOne at *
  omega

/-! ## The quantizers -/

/-- The value of a finite datum is its magnitude, up to the sign (R9). -/
theorem magUnits_of_finite {b : Word} {u : Int} (h : f32val b = .finite u) : magUnits b = u.natAbs := by
  unfold f32val at h
  split_ifs at h <;> cases h <;> simp

theorem magUnits_clamp01_le (b : Word) : magUnits (clamp01 b) ≤ unitsOfOne := by
  obtain ⟨u, hu, h0, h1⟩ := clamp01_range b
  rw [magUnits_of_finite hu]
  omega

/-- Where the maximum level is itself the value of a datum, no product rounds past it, so no level does (R59, R61). -/
theorem quantize_le {m : Nat} {top : Word} (hfin : top.toNat < 0x7F800000) (htop : magUnits top = m * unitsOfOne)
    (b : Word) : quantize b m ≤ m := by
  have hproduct : m * magUnits (clamp01 b) ≤ 1 * magUnits top := by
    rw [one_mul, htop]
    exact Nat.mul_le_mul_left m (magUnits_clamp01_le b)
  have hword : (scale (clamp01 b) m).toNat ≤ top.toNat := roundUnits_le Nat.one_pos hfin.le hproduct
  exact roundHalfAway_le ((magUnits_le_magUnits (by omega) hword).trans_eq htop)

theorem quantize_1023_le (b : Word) : quantize b 1023 ≤ 1023 :=
  quantize_le (top := 0x447FC000) (by decide) (by decide) b

theorem quantize_3_le (b : Word) : quantize b 3 ≤ 3 :=
  quantize_le (top := 0x40400000) (by decide) (by decide) b

theorem toNat_q10 (b : Word) : (q10 b).toNat = quantize b 1023 :=
  Nat.mod_eq_of_lt (Nat.lt_succ_of_le (quantize_1023_le b))

theorem toNat_q2 (b : Word) : (q2 b).toNat = quantize b 3 :=
  Nat.mod_eq_of_lt (Nat.lt_succ_of_le (quantize_3_le b))

/-- Settles O43: 1023 and 3 are values of data. -/
theorem levelsFitTheirFields : Obligations.LevelsFitTheirFields :=
  fun b => ⟨quantize_1023_le b, quantize_3_le b, toNat_q10 b, toNat_q2 b⟩

/-! ## The normaliser -/

theorem normalize_zero (m : Nat) (hm : 0 < m) : normalize 0 m = 0 := by
  rw [normalize, rne32, mul_zero]
  exact roundUnits_magUnits (b := 0) (by decide) hm

theorem normalize_self {m : Nat} (hm : 0 < m) : normalize m m = 0x3F800000 := by
  rw [normalize, rne32, mul_comm, ← magUnits_one]
  exact roundUnits_magUnits (by decide) hm

theorem normalize_mono {j k : Nat} (h : j ≤ k) (m : Nat) : (normalize j m).toNat ≤ (normalize k m).toNat :=
  roundUnits_mono (Nat.mul_le_mul_left _ h) m

section Levels

variable {m k : Nat}

/-- A level of at most `m` reads as at most 1.0. -/
theorem normalize_le_one (hm : 0 < m) (hk : k ≤ m) : (normalize k m).toNat ≤ 0x3F800000 :=
  (normalize_mono hk m).trans_eq (by rw [normalize_self hm]; rfl)

/-- The least result other than 0 is that of level 1 of 1023: the datum 0x3A802008 is below 1/1023. -/
theorem le_normalize (hm : 0 < m) (hmax : m ≤ 1023) (hk : 0 < k) : 0x3A802008 ≤ (normalize k m).toNat :=
  le_roundUnits (b := 0x3A802008) hm (by decide) <|
    calc
      m * magUnits 0x3A802008 ≤ 1023 * magUnits 0x3A802008 := Nat.mul_le_mul_right _ hmax
      _ ≤ unitsOfOne * 1 := by decide
      _ ≤ unitsOfOne * k := Nat.mul_le_mul_left _ hk

/-- The result is off by at most half a unit in its last place. -/
theorem normalize_error (hm : 0 < m) (hk : k ≤ m) :
    2 * ((magUnits (normalize k m) * m : Int) - k * unitsOfOne).natAbs
      ≤ m * 2 ^ (f32Exponent (normalize k m) - 1) := by
  have hfin := normalize_le_one hm hk
  rw [← Nat.cast_mul k, mul_comm k]
  exact roundUnits_error _ hm (hfin.trans_lt (by decide))

/-- In [0, 1] the last place is at most 2^126 units, that is, 2^-23. -/
theorem normalize_error_le (hm : 0 < m) (hk : k ≤ m) :
    2 * ((magUnits (normalize k m) * m : Int) - k * unitsOfOne).natAbs ≤ m * 2 ^ 126 := by
  have hexp : f32Exponent (normalize k m) - 1 ≤ 126 := by
    have hle := normalize_le_one hm hk
    rw [f32Exponent_eq]
    omega
  exact (normalize_error hm hk).trans (Nat.mul_le_mul_left _ (Nat.pow_le_pow_right (by decide) hexp))

/-- The magnitudes rise strictly: the errors of two levels together are below the distance of their quotients. -/
theorem magUnits_normalize_lt (hm : 0 < m) (hmax : m ≤ 1023) (hk : k ≤ m) {j : Nat} (hj : j < k) :
    magUnits (normalize j m) < magUnits (normalize k m) := by
  have herrj := normalize_error_le hm (hj.le.trans hk)
  have herrk := normalize_error_le hm hk
  have hmul : (magUnits (normalize j m) * m : Int) < magUnits (normalize k m) * m := by
    unfold unitsOfOne at *
    push_cast at *
    omega
  exact_mod_cast lt_of_mul_lt_mul_right hmul (Int.natCast_nonneg m)

/-- The words rise strictly: they rise, and equal words would have equal magnitudes. -/
theorem normalize_lt (hm : 0 < m) (hmax : m ≤ 1023) (hk : k ≤ m) {j : Nat} (hj : j < k) :
    (normalize j m).toNat < (normalize k m).toNat := by
  refine (normalize_mono hj.le m).lt_of_ne fun heq => ?_
  have hlt := magUnits_normalize_lt hm hmax hk hj
  rw [BitVec.eq_of_toNat_eq heq] at hlt
  exact lt_irrefl _ hlt

/-- For an odd maximum level the quotient is exact only at the ends: an exact one makes `m` divide `k` × 2^149. -/
theorem normalize_exact_iff (hodd : m % 2 = 1) (hk : k ≤ m) :
    magUnits (normalize k m) * m = k * unitsOfOne ↔ k = 0 ∨ k = m := by
  have hm : 0 < m := by omega
  constructor
  · intro h
    have hcop : Nat.Coprime m unitsOfOne := Nat.Coprime.pow_right _ (Nat.coprime_two_right.mpr (Nat.odd_iff.mpr hodd))
    have hdvd : m ∣ k := hcop.dvd_of_dvd_mul_right (Dvd.intro_left _ h)
    obtain rfl | hpos := k.eq_zero_or_pos
    · exact .inl rfl
    · exact .inr (hk.antisymm (Nat.le_of_dvd hpos hdvd))
  · rintro (rfl | rfl)
    · rw [normalize_zero m hm, zero_mul, show magUnits 0 = 0 from rfl, zero_mul]
    · rw [normalize_self hm, magUnits_one, mul_comm]

end Levels

/-- Settles O50: rounding is monotone and exact on data, which gives the range; its error is below half the distance
of two levels, which gives the strict order; both maximum levels are odd. -/
theorem normaliserProperties : Obligations.NormaliserProperties := by
  intro m k hm hk
  obtain ⟨hpos, hmax, hodd⟩ : 0 < m ∧ m ≤ 1023 ∧ m % 2 = 1 := by omega
  refine ⟨normalize_le_one hpos hk, ?_,
    fun j hj => ⟨normalize_lt hpos hmax hk hj, magUnits_normalize_lt hpos hmax hk hj⟩,
    normalize_exact_iff hodd hk, fun _ => normalize_error hpos hk⟩
  obtain rfl | hk0 := k.eq_zero_or_pos
  · exact .inl (normalize_zero m hpos)
  · exact .inr (le_normalize hpos hmax hk0)

end Sys2Proof.Machine
end

section
/-! SUPPORT. Construction commands (41_construct.md): `CREATE` and `FROMRAW` give W a whole new value in every state
(R76, R77). -/

namespace Sys2Proof

/-- Command word 1 names `CREATE`, whose operands are all four operand words (R43, R46). -/
theorem decode_create {t : Transaction} (h : t.cmd = 0x00000001) :
    decode t = .ok (.create t.opa t.opb t.opc t.opd) := by
  simp [decode, Transaction.rsvd, Transaction.op, h]

/-- Command word 2 names `FROMRAW`, whose operand is the first operand word (R43, R46). -/
theorem decode_fromraw {t : Transaction} (h : t.cmd = 0x00000002) : decode t = .ok (.fromraw t.opa) := by
  simp [decode, Transaction.rsvd, Transaction.op, h]

namespace Machine

/-- A construction writes W, its definedness and the response, and nothing else (R45, R105). -/
theorem State.construct_eq (s : State) (v : Word) :
    s.construct v = { s with w := v, wDefined := true, rsp := none } := rfl

/-- Settles O1: `CREATE` is the construction of its packed levels and reads no W, so the check does not stop it; the
packing law gives the fields. -/
theorem createPacksFourLevels : Obligations.CreatePacksFourLevels := by
  refine ⟨fun _ => decode_create, fun fx fy fz fw s => ⟨?_, ?_, ?_⟩, by decide⟩
  · rw [exec_create, State.construct_eq]
  · exact checkedExec_of_not_reads rfl s
  · exact unpack_pack _ _ _ _

/-- Settles O2: `FROMRAW` is the construction of its operand and reads no W, so the check does not stop it. -/
theorem fromrawLoadsWordVerbatim : Obligations.FromrawLoadsWordVerbatim := by
  refine ⟨fun _ => decode_fromraw, fun r s => ⟨?_, ?_⟩, by decide⟩
  · rw [exec_fromraw, State.construct_eq]
  · exact checkedExec_of_not_reads rfl s

end Machine

end Sys2Proof
end

section
/-! SUPPORT. Component read commands (42_read.md): `GETX`, `GETY`, `GETZ` and `GETW` are one reader, said of a field
(R78 to R81). -/

namespace Sys2Proof

/-- A command without operands is named by its command word alone (R43, R47). -/
theorem decode_of_no_operands {i : Instr} {t : Transaction} (hi : Machine.operandWords i = [])
    (h : t.cmd = (encode i).cmd) : decode t = .ok i := by
  cases i with
  | create | fromraw | setx | sety | setz | setw | setxyz => simp [Machine.operandWords] at hi
  | getx | gety | getz | getw | rawval => simp [decode, Transaction.rsvd, Transaction.op, h, encode]

namespace Machine

/-! ## The reader of a field -/

/-- The command that reads a field (R78 to R81). -/
def readerOf : Field → Instr
  | .x => .getx
  | .y => .gety
  | .z => .getz
  | .w => .getw

theorem operandWords_readerOf (f : Field) : operandWords (readerOf f) = [] := by
  cases f <;> rfl

theorem readsW_readerOf (f : Field) : readsW (readerOf f) = true := by
  cases f <;> rfl

theorem exec_readerOf (f : Field) (s : State) : exec (readerOf f) s = readComponent f s := by
  cases f <;> rfl

/-- On a defined W a reader writes the response and nothing else: it leaves no mark (R94). -/
theorem exec_readerOf_of_defined (f : Field) {s : State} (h : s.wDefined = true) :
    exec (readerOf f) s = .next { s with rsp := some (normalize (fieldLevel s.w f) (maxLevel f)) } := by
  rw [exec_readerOf, readComponent_eq, State.noteRead_of_defined h, State.respond]

/-- The command word of a reader, its effect on a defined W and its fault on an undefined one (R78 to R81). -/
theorem readerOf_spec (f : Field) :
    (∀ t : Transaction, t.cmd = (encode (readerOf f)).cmd → decode t = .ok (readerOf f)) ∧
    (∀ s : State, s.wDefined = true →
      exec (readerOf f) s = .next { s with rsp := some (normalize (fieldLevel s.w f) (maxLevel f)) } ∧
        checkedExec (readerOf f) s = exec (readerOf f) s) ∧
    (∀ s : State, s.wDefined = false →
      checkedExec (readerOf f) s = .fault (.undefinedW (opcode (readerOf f)))) :=
  ⟨fun _ => decode_of_no_operands (operandWords_readerOf f),
    fun _ h => ⟨exec_readerOf_of_defined f h, checkedExec_of_defined h _⟩,
    fun _ => checkedExec_fault (readsW_readerOf f)⟩

/-- In every state a reader responds with the level of the word held and keeps the word. -/
theorem exists_exec_readerOf (f : Field) {s : State} {word v : Word} (hw : s.w = word)
    (hv : normalize (fieldLevel word f) (maxLevel f) = v) :
    ∃ t, exec (readerOf f) s = .next t ∧ t.rsp = some v ∧ t.w = s.w := by
  subst hw hv
  exact ⟨_, (exec_readerOf f s).trans (readComponent_eq f s), rfl, rfl⟩

/-! ## The three readers of a 10-bit field -/

/-- Settles O3: `GETX` is the reader of `x`, and the normaliser is exact at the ends. -/
theorem getxReturnsXComponent : Obligations.GetxReturnsXComponent := by
  obtain ⟨hdecode, hdefined, hundefined⟩ := readerOf_spec .x
  exact ⟨hdecode, hdefined, hundefined, normalize_zero 1023 (by decide), normalize_self (by decide),
    fun _ _ hw => exists_exec_readerOf .x hw (by decide)⟩

/-- Settles O4: `GETY` is the reader of `y`, and the normaliser is exact at the ends. -/
theorem getyReturnsYComponent : Obligations.GetyReturnsYComponent := by
  obtain ⟨hdecode, hdefined, hundefined⟩ := readerOf_spec .y
  exact ⟨hdecode, hdefined, hundefined, normalize_zero 1023 (by decide), normalize_self (by decide),
    fun _ _ hw => exists_exec_readerOf .y hw (by decide)⟩

/-- Settles O5: `GETZ` is the reader of `z`, and the normaliser is exact at the ends. -/
theorem getzReturnsZComponent : Obligations.GetzReturnsZComponent := by
  obtain ⟨hdecode, hdefined, hundefined⟩ := readerOf_spec .z
  exact ⟨hdecode, hdefined, hundefined, normalize_zero 1023 (by decide), normalize_self (by decide),
    fun _ _ hw => exists_exec_readerOf .z hw (by decide)⟩

/-! ## The reader of the 2-bit field -/

/-- The four results of the normaliser for a 2-bit level (R70, R81). -/
theorem normalize_level2_cases (k : Level2) :
    (k = 0 ∧ normalize k.toNat 3 = 0x00000000) ∨ (k = 1 ∧ normalize k.toNat 3 = 0x3EAAAAAB) ∨
    (k = 2 ∧ normalize k.toNat 3 = 0x3F2AAAAB) ∨ (k = 3 ∧ normalize k.toNat 3 = 0x3F800000) := by
  revert k
  decide

/-- Settles O6: `GETW` is the reader of `w`, whose level is one of four in every state. -/
theorem getwReturnsOneOfFour : Obligations.GetwReturnsOneOfFour := by
  obtain ⟨hdecode, hdefined, hundefined⟩ := readerOf_spec .w
  refine ⟨hdecode, hdefined, hundefined, fun s t ht => ?_,
    fun _ _ hw => exists_exec_readerOf .w hw (by decide)⟩
  have hrsp : t.rsp = some (normalize (s.w.extractLsb' 30 2).toNat 3) := by
    cases (exec_getw s).symm.trans ht
    rfl
  simpa only [hrsp, Option.some.injEq] using normalize_level2_cases (s.w.extractLsb' 30 2)

end Machine

end Sys2Proof
end

section
/-! SUPPORT. Component write commands (43_write.md): `SETX`, `SETY`, `SETZ` and `SETW` are one writer, said of a field
(R82 to R85), and `SETXYZ` is three of them in one step (R86, R87). -/

namespace Sys2Proof

/-- A command is named by its command word and the operand words that it reads, which are the first ones of the
transaction (R43, R47). -/
theorem decode_of_operandWords {i : Instr} {t : Transaction} (hcmd : t.cmd = (encode i).cmd)
    (hops : Machine.operandWords i <+: [t.opa, t.opb, t.opc, t.opd]) : decode t = .ok i := by
  cases i <;> simp only [Machine.operandWords, List.cons_prefix_cons] at hops <;>
    simp [decode, Transaction.rsvd, Transaction.op, hcmd, encode, hops]

namespace Machine

/-! ## What an insert keeps -/

/-- Bits that lie outside the field are kept by an insert, whether or not they are a field (R68). -/
theorem extractLsb'_insertField_outside (v : Word) (f : Field) {k : Nat} (hk : k ≤ maxLevel f) {start len : Nat}
    (hend : start + len ≤ 32) (hout : start + len ≤ fieldOff f ∨ fieldOff f + fieldWidth f ≤ start) :
    (insertField v f (BitVec.ofNat 32 k)).extractLsb' start len = v.extractLsb' start len := by
  apply BitVec.eq_of_getLsbD_eq
  intro i hi
  have h32 : start + i < 32 := by omega
  have hbit : ¬ (fieldOff f ≤ start + i ∧ start + i < fieldOff f + fieldWidth f) := by omega
  simp only [BitVec.getLsbD_extractLsb', getLsbD_insertField v f hk h32, if_neg hbit]

/-- The lowest field needs no shift (R68, R82). -/
theorem insertField_x (v k : Word) : insertField v .x k = (v &&& 0xFFFFFC00) ||| k := by
  simp [insertField, fieldMask, fieldOff]

/-! ## A write of W that reads W -/

/-- On a defined W such a write changes W and the response, and leaves no mark (R45, R94). -/
theorem State.noteRead_store_of_defined {s : State} (h : s.wDefined = true) (v : Word) :
    s.noteRead.store v = { s with w := v, rsp := none } := by
  rw [State.noteRead_of_defined h, State.store]

/-- Of two such writes the last one counts: the first has raised the mark already if W is undefined. -/
theorem State.noteRead_store_noteRead_store (s : State) (u v : Word) :
    (s.noteRead.store u).noteRead.store v = s.noteRead.store v :=
  State.ext_fields rfl rfl rfl rfl (by simp) rfl rfl

/-! ## The writer of a field -/

/-- The command that writes a field (R82 to R85). -/
def writerOf : Field → Word → Instr
  | .x => .setx
  | .y => .sety
  | .z => .setz
  | .w => .setw

/-- The level that a field's writer makes of its operand, as a word (R63). -/
def writerLevel : Field → Word → Word
  | .x, a => (q10 a).setWidth 32
  | .y, a => (q10 a).setWidth 32
  | .z, a => (q10 a).setWidth 32
  | .w, a => (q2 a).setWidth 32

theorem operandWords_writerOf (f : Field) (a : Word) : operandWords (writerOf f a) = [a] := by
  cases f <;> rfl

theorem readsW_writerOf (f : Field) (a : Word) : readsW (writerOf f a) = true := by
  cases f <;> rfl

theorem exec_writerOf (f : Field) (a : Word) (s : State) :
    exec (writerOf f a) s = .next (s.noteRead.store (insertField s.w f (writerLevel f a))) := by
  cases f <;> rfl

theorem quantize_le_maxLevel (f : Field) (a : Word) : quantize a (maxLevel f) ≤ maxLevel f := by
  cases f with
  | x | y | z => exact quantize_1023_le a
  | w => exact quantize_3_le a

/-- The quantized operand fits the field, so the cast to the field's width loses nothing (R61, R63). -/
theorem writerLevel_eq (f : Field) (a : Word) : writerLevel f a = BitVec.ofNat 32 (quantize a (maxLevel f)) := by
  cases f with
  | x | y | z => rw [writerLevel, ← BitVec.ofNat_toNat, toNat_q10, maxLevel]
  | w => rw [writerLevel, ← BitVec.ofNat_toNat, toNat_q2, maxLevel]

/-- The command word of a writer, its effect on a defined W and its fault on an undefined one (R82 to R85). -/
theorem writerOf_spec (f : Field) :
    (∀ t : Transaction, t.cmd = (encode (writerOf f t.opa)).cmd → decode t = .ok (writerOf f t.opa)) ∧
    (∀ (a : Word) (s : State), s.wDefined = true →
      exec (writerOf f a) s = .next { s with w := insertField s.w f (writerLevel f a), rsp := none } ∧
        checkedExec (writerOf f a) s = exec (writerOf f a) s) ∧
    (∀ (a : Word) (s : State), s.wDefined = false →
      checkedExec (writerOf f a) s = .fault (.undefinedW (opcode (writerOf f a)))) := by
  refine ⟨fun t ht => decode_of_operandWords ht ?_, fun a s h => ⟨?_, checkedExec_of_defined h _⟩,
    fun a s => checkedExec_fault (readsW_writerOf f a)⟩
  · simp [operandWords_writerOf]
  · rw [exec_writerOf, State.noteRead_store_of_defined h]

/-- In every state a writer inserts its level into the word held. -/
theorem exists_exec_writerOf (f : Field) {s : State} {word a v : Word} (hw : s.w = word)
    (hv : insertField word f (writerLevel f a) = v) : ∃ t, exec (writerOf f a) s = .next t ∧ t.w = v := by
  subst hw hv
  exact ⟨_, exec_writerOf f a s, rfl⟩

section AfterWrite

variable {f : Field} {a : Word} {s t : State}

theorem w_of_exec_writerOf (h : exec (writerOf f a) s = .next t) :
    t.w = insertField s.w f (BitVec.ofNat 32 (quantize a (maxLevel f))) := by
  cases (exec_writerOf f a s).symm.trans h
  rw [State.store_w, writerLevel_eq]

/-- After a write the field holds the quantized operand (R63). -/
theorem fieldLevel_of_exec_writerOf (h : exec (writerOf f a) s = .next t) :
    fieldLevel t.w f = quantize a (maxLevel f) := by
  rw [w_of_exec_writerOf h, fieldLevel_insertField_same s.w f (quantize_le_maxLevel f a)]

/-- A write keeps every range of bits outside the field (R82 to R85). -/
theorem extractLsb'_of_exec_writerOf (h : exec (writerOf f a) s = .next t) {start len : Nat}
    (hend : start + len ≤ 32) (hout : start + len ≤ fieldOff f ∨ fieldOff f + fieldWidth f ≤ start) :
    t.w.extractLsb' start len = s.w.extractLsb' start len := by
  rw [w_of_exec_writerOf h, extractLsb'_insertField_outside s.w f (quantize_le_maxLevel f a) hend hout]

end AfterWrite

/-! ## The three writers of a 10-bit field -/

/-- Settles O7: `SETX` is the writer of `x`. -/
theorem setxWritesOnlyX : Obligations.SetxWritesOnlyX := by
  obtain ⟨hdecode, hdefined, hundefined⟩ := writerOf_spec .x
  refine ⟨hdecode, fun a s h => ?_, hundefined, fun a s t ht => ⟨?_, ?_⟩,
    fun _ _ hw => exists_exec_writerOf .x hw (by decide)⟩
  · rw [← insertField_x]
    exact hdefined a s h
  · exact BitVec.eq_of_toNat_eq ((fieldLevel_of_exec_writerOf (f := .x) ht).trans (toNat_q10 a).symm)
  · exact extractLsb'_of_exec_writerOf (f := .x) ht (by decide) (by decide)

/-- Settles O8: `SETY` is the writer of `y`. -/
theorem setyWritesOnlyY : Obligations.SetyWritesOnlyY := by
  obtain ⟨hdecode, hdefined, hundefined⟩ := writerOf_spec .y
  refine ⟨hdecode, hdefined, hundefined, fun a s t ht => ⟨?_, ?_, ?_⟩,
    fun _ _ hw => exists_exec_writerOf .y hw (by decide)⟩
  · exact BitVec.eq_of_toNat_eq ((fieldLevel_of_exec_writerOf (f := .y) ht).trans (toNat_q10 a).symm)
  · exact extractLsb'_of_exec_writerOf (f := .y) ht (by decide) (by decide)
  · exact extractLsb'_of_exec_writerOf (f := .y) ht (by decide) (by decide)

/-- Settles O9: `SETZ` is the writer of `z`. -/
theorem setzWritesOnlyZ : Obligations.SetzWritesOnlyZ := by
  obtain ⟨hdecode, hdefined, hundefined⟩ := writerOf_spec .z
  refine ⟨hdecode, hdefined, hundefined, fun a s t ht => ⟨?_, ?_, ?_⟩,
    fun _ _ hw => exists_exec_writerOf .z hw (by decide)⟩
  · exact BitVec.eq_of_toNat_eq ((fieldLevel_of_exec_writerOf (f := .z) ht).trans (toNat_q10 a).symm)
  · exact extractLsb'_of_exec_writerOf (f := .z) ht (by decide) (by decide)
  · exact extractLsb'_of_exec_writerOf (f := .z) ht (by decide) (by decide)

/-! ## The writer of three fields -/

/-- Settles O11: what `SETXYZ` writes is a packing of the three new levels and the old `w`, and the packing law gives
its fields. -/
theorem setxyzWritesThreeFields : Obligations.SetxyzWritesThreeFields := by
  refine ⟨fun t ht => decode_of_operandWords ht ?_, fun fx fy fz s h => ⟨?_, checkedExec_of_defined h _⟩,
    fun _ _ _ _ => checkedExec_fault rfl, fun fx fy fz s t ht => ?_, fun s _ hw => ⟨_, exec_setxyz _ _ _ s, ?_⟩⟩
  · simp [operandWords]
  · rw [exec_setxyz, State.noteRead_store_of_defined h, insertXYZ]
  · cases (exec_setxyz fx fy fz s).symm.trans ht
    rw [State.store_w, insertXYZ_eq_pack, unpack_pack, unpack]
  · rw [State.store_w, hw]
    decide

/-! ## The order of writes -/

/-- Two commands commute when, in every state and before any further commands, their order does not matter. -/
def CommandsCommute (i j : Instr) : Prop :=
  ∀ (s : State) (is : List Instr), execAll (i :: j :: is) s = execAll (j :: i :: is) s

theorem CommandsCommute.symm {i j : Instr} (h : CommandsCommute i j) : CommandsCommute j i :=
  fun s is => (h s is).symm

/-- Commands that commute pairwise can be issued in any order. -/
theorem execAll_perm {is js : List Instr} (hperm : is.Perm js) (hcomm : is.Pairwise CommandsCommute) (s : State) :
    execAll is s = execAll js s := by
  induction hperm generalizing s with
  | nil => rfl
  | cons i _ ih => simp only [execAll, ih hcomm.of_cons]
  | swap i j is => exact List.rel_of_pairwise_cons hcomm List.mem_cons_self s is
  | trans h₁ _ ih₁ ih₂ => exact (ih₁ hcomm s).trans (ih₂ (hcomm.perm h₁ CommandsCommute.symm) s)

theorem execAll_writerOf_cons (f : Field) (a : Word) (is : List Instr) (s : State) :
    execAll (writerOf f a :: is) s = execAll is (s.noteRead.store (insertField s.w f (writerLevel f a))) :=
  execAll_cons_of_next (exec_writerOf f a s) is

/-- Writers of different fields commute, because the inserts do (R69). -/
theorem writerOf_commute {f g : Field} (h : f ≠ g) (a b : Word) : CommandsCommute (writerOf f a) (writerOf g b) := by
  intro s is
  have hinsert := insertField_comm s.w h (quantize_le_maxLevel f a) (quantize_le_maxLevel g b)
  simp only [execAll_writerOf_cons, State.noteRead_store_noteRead_store, State.store_w, writerLevel_eq, hinsert]

/-- The three single writes in the order of the fields are the three-field write (R69, R87). -/
theorem execAll_three_writers (a b c : Word) (s : State) :
    execAll [writerOf .x a, writerOf .y b, writerOf .z c] s = exec (.setxyz a b c) s := by
  simp only [execAll_writerOf_cons, State.noteRead_store_noteRead_store, State.store_w, writerLevel, execAll_nil,
    exec_setxyz, insertXYZ_eq_inserts]

/-- Settles O12: the three writers commute, so every order does what the order of the fields does. -/
theorem setxyzEqualsThreeSingleWrites : Obligations.SetxyzEqualsThreeSingleWrites := by
  intro a b c s is _ hperm
  have hcomm : [writerOf .x a, writerOf .y b, writerOf .z c].Pairwise CommandsCommute := by
    simp [writerOf_commute]
  have hall : execAll is s = exec (.setxyz a b c) s :=
    (execAll_perm hperm.symm hcomm s).symm.trans (execAll_three_writers a b c s)
  exact ⟨⟨_, hall.trans (exec_setxyz a b c s)⟩, hall⟩

end Machine

end Sys2Proof
end

section
/-! SUPPORT. The raw export command (44_export.md): `RAWVAL` responds with W as it is (R88). -/

namespace Sys2Proof.Machine

/-- On a defined W the export writes the response and nothing else: it leaves no mark (R88, R94). -/
theorem exec_rawval_of_defined {s : State} (h : s.wDefined = true) :
    exec .rawval s = .next { s with rsp := some s.w } := by
  rw [exec_rawval, State.noteRead_of_defined h, State.respond]

/-- A command that constructs a word, in any state, followed by the export returns that word and keeps it (R39, R88). -/
theorem exists_execAll_construct_rawval {i : Instr} {s : State} {v : Word} (h : exec i s = .next (s.construct v)) :
    ∃ t, execAll [i, .rawval] s = .next t ∧ t.rsp = some v ∧ t.w = v := by
  have hexport : exec .rawval (s.construct v) = .next { s.construct v with rsp := some v } :=
    exec_rawval_of_defined rfl
  refine ⟨{ s.construct v with rsp := some v }, ?_, rfl, rfl⟩
  rw [execAll_cons_of_next h, execAll_cons_of_next hexport, execAll_nil]

/-- Settles O13: `RAWVAL` reads W and responds with it unchanged; `FROMRAW` and `CREATE` are constructions, and the
levels of the worked example pack to its word. -/
theorem rawvalReturnsWord : Obligations.RawvalReturnsWord := by
  have hexample : pack (q10 0x3EE353F8) (q10 0x3F0E147B) (q10 0x3F2A7EFA) (q2 0x3EAA7EFA) = 0x6A98E1C6 := by decide
  refine ⟨fun _ => decode_of_no_operands (i := .rawval) rfl,
    fun s h => ⟨exec_rawval_of_defined h, checkedExec_of_defined h _⟩,
    fun _ => checkedExec_fault rfl,
    fun r s => exists_execAll_construct_rawval (exec_fromraw r s), fun s => ?_⟩
  obtain ⟨t, hrun, hrsp, -⟩ := exists_execAll_construct_rawval (exec_create _ _ _ _ s)
  exact ⟨t, hrun, hrsp.trans (congrArg some hexample)⟩

end Sys2Proof.Machine
end

section
/-! SUPPORT. Exceptions (60_exceptions.md): the refusal of a reserved command word (R93) and the fault of the checked
step on a read of an undefined W (R94). -/

namespace Sys2Proof

/-- The opcodes without a command are 0x0, 0xD, 0xE and 0xF (R48). -/
theorem Transaction.opAssigned_eq_false_iff (t : Transaction) :
    t.opAssigned = false ↔ t.op ∈ [0x0#4, 0xD#4, 0xE#4, 0xF#4] := by
  simp only [Transaction.opAssigned, Bool.not_eq_false', Bool.or_eq_true, beq_iff_eq, or_assoc, List.mem_cons,
    List.not_mem_nil, or_false]

namespace Machine

/-! ## One event, by what it is -/

section
variable {run : Instr → State → Host.Outcome State Fault Refusal} {s : State} {t : Transaction} {es : List HostEvent}

/-- A decoded command runs on the state with its event taken (R91). -/
theorem stepWith_of_decode_ok {i : Instr} (hp : s.pending = .command t :: es) (hd : decode t = .ok i) :
    stepWith run s = run i s.takeEvent := by
  simp [stepWith, hp, hd]

/-- A command word that the decoder refuses is refused before anything else is looked at (R91, R93). -/
theorem stepWith_of_decode_error {e : DecodeError} (hp : s.pending = .command t :: es) (hd : decode t = .error e) :
    stepWith run s = .refused (refusalOf t.cmd e) := by
  simp [stepWith, hp, hd]

/-- A property holds after every event but a reset, whatever the outcome, when it holds before, after a refusal and
after each command. -/
theorem settle_stepWith_of_no_reset {P : State → Prop} (hno : ∀ es, s.pending ≠ .reset :: es) (hidle : P s)
    (hrefused : ∀ r, P (settle s (.refused r))) (hrun : ∀ i, P (settle s (run i s.takeEvent))) :
    P (settle s (stepWith run s)) := by
  obtain ⟨-, h⟩ | ⟨es, hp, -⟩ | ⟨t, es, -, ⟨i, -, h⟩ | ⟨e, -, h⟩⟩ := stepWith_cases run s
  · rw [h]
    exact hidle
  · exact absurd hp (hno es)
  · rw [h]
    exact hrun i
  · rw [h]
    exact hrefused _

end

/-! ## The refusal of a reserved command word -/

/-- Both steps refuse a command word without a command, W defined or not; the event is taken, there is no response and
the mark is set (R93). -/
theorem step_of_decode_error {s : State} {t : Transaction} {es : List HostEvent} {e : DecodeError}
    (hp : s.pending = .command t :: es) (hd : decode t = .error e) :
    step s = .refused (refusalOf t.cmd e) ∧ checkedStep s = step s ∧
      advance s = { s with pending := es, rsp := none, refused := true } := by
  have hstep : step s = .refused (refusalOf t.cmd e) := stepWith_of_decode_error hp hd
  have hchecked : checkedStep s = .refused (refusalOf t.cmd e) := stepWith_of_decode_error hp hd
  refine ⟨hstep, hchecked.trans hstep.symm, ?_⟩
  rw [advance, hstep, settle_refused, hp, List.tail_cons]

/-- The check lets a command run, or stops it where it reads W while W is undefined (R94). -/
theorem checkedExec_cases (i : Instr) (s : State) :
    checkedExec i s = exec i s ∨
    (readsW i = true ∧ s.wDefined = false ∧ checkedExec i s = .fault (.undefinedW (opcode i))) := by
  cases hi : readsW i with
  | false => exact .inl (checkedExec_of_not_reads hi s)
  | true =>
    cases hs : s.wDefined with
    | true => exact .inl (checkedExec_of_defined hs i)
    | false => exact .inr ⟨rfl, rfl, checkedExec_fault hi hs⟩

/-- No command clears the mark `refused`. -/
theorem refused_settle_exec {s : State} (h : s.refused = true) (i : Instr) :
    (settle s (exec i s.takeEvent)).refused = true := by
  obtain ⟨v, hexec⟩ | ⟨f, hexec⟩ | ⟨f, hexec⟩ := exec_shape i <;> simp [hexec, h]

/-- Nor does a command that the check can stop: the fault leaves the mark as it is. -/
theorem refused_settle_checkedExec {s : State} (h : s.refused = true) (i : Instr) :
    (settle s (checkedExec i s.takeEvent)).refused = true := by
  obtain hexec | ⟨-, -, hfault⟩ := checkedExec_cases i s.takeEvent
  · rw [hexec]
    exact refused_settle_exec h i
  · rw [hfault]
    exact h

/-- Settles O22: the decoder refuses the word for the reason stated, before any command can run; and no event but a
reset clears the mark. -/
theorem reservedWordIsRefused : Obligations.ReservedWordIsRefused := by
  refine ⟨fun s t es hp => ⟨fun hbits => ?_, fun hbits hop => ?_⟩, fun s hno h => ⟨?_, ?_⟩⟩
  · exact step_of_decode_error hp (decode_of_reserved_bits hbits)
  · exact step_of_decode_error hp (decode_of_reserved_opcode hbits (t.opAssigned_eq_false_iff.mpr hop))
  · exact settle_stepWith_of_no_reset (P := (·.refused = true)) hno h (fun _ => rfl) (refused_settle_exec h)
  · exact settle_stepWith_of_no_reset (P := (·.refused = true)) hno h (fun _ => rfl) (refused_settle_checkedExec h)

/-! ## The fault on a read of an undefined W -/

/-- The commands that do not read W are those of the opcodes 0x1 and 0x2, `CREATE` and `FROMRAW` (R94). -/
theorem readsW_eq_opcode (i : Instr) : readsW i = (opcode i != 0x1 && opcode i != 0x2) := by
  cases i <;> rfl

/-- Settles O23: the command word passes, the check on W stops the command, and the state after a fault keeps W as it
was, undefined. -/
theorem undefinedReadFaultsWhenChecked : Obligations.UndefinedReadFaultsWhenChecked := by
  refine ⟨fun i => by simp [readsW_eq_opcode], fun s t es i hp hd hi hs => ?_⟩
  have hfault : checkedStep s = .fault (.undefinedW t.op) :=
    calc
      checkedStep s = checkedExec i s.takeEvent := stepWith_of_decode_ok hp hd
      _ = .fault (.undefinedW (opcode i)) := checkedExec_fault hi hs
      _ = .fault (.undefinedW t.op) := by rw [opcode_of_decode_ok hd]
  rw [checkedAdvance, hfault, settle_fault]
  exact ⟨rfl, rfl, State.word?_of_undefined hs, rfl⟩

end Machine

end Sys2Proof
end

section
/-! SUPPORT. Encoding (30_encoding.md): decoding undoes encoding on words and on bytes, encoding undoes decoding on the
assembler's form, and ignored operand words do not matter. -/

namespace Sys2Proof

open Sys2Proof.Machine

/-! ## From a command to its words and bytes and back -/

/-- Decoding the encoding of a command gives it back: the encoder writes its command word, and its operands first. -/
theorem decode_encode (i : Instr) : decode (encode i) = .ok i :=
  decode_of_operandWords rfl (by cases i <;> simp [operandWords, encode])

/-- The four bytes of a word are read back as that word (R29). -/
theorem takeWord_wordBytes_append (v : Word) (rest : List Byte) :
    takeWord (wordBytes v ++ rest) = some (v, rest) :=
  congrArg (fun u => some (u, rest)) (bytesWord_byteOf v)

/-- The 20 bytes of a transaction are read back as that transaction (R29, R40). -/
theorem takeTransaction_transactionBytes_append (t : Transaction) (rest : List Byte) :
    takeTransaction (transactionBytes t ++ rest) = some (t, rest) := by
  simp [takeTransaction, transactionBytes, List.append_assoc, takeWord_wordBytes_append]

/-- The byte decoder reads the bytes of a transaction as the decoder reads its words. -/
theorem decodeBytes_transactionBytes_append {t : Transaction} {i : Instr} (h : decode t = .ok i) (rest : List Byte) :
    decodeBytes (transactionBytes t ++ rest) = .ok (i, rest) := by
  simp [decodeBytes, takeTransaction_transactionBytes_append, h]

/-- Settles O31: decoding undoes encoding, and the bytes of a transaction give the transaction back. -/
theorem decodeEncodeRoundTrip : Obligations.DecodeEncodeRoundTrip :=
  fun i rest => ⟨decode_encode i, decodeBytes_transactionBytes_append (decode_encode i) rest⟩

/-! ## From a transaction in the assembler's form to its command and back -/

/-- With reserved bits zero the command word is the opcode alone (R41). -/
theorem Transaction.cmd_eq_op {t : Transaction} (h : t.rsvd = 0#28) : t.cmd = BitVec.ofNat 32 t.op.toNat := by
  have hlt := t.rsvd_eq_zero_iff.mp h
  rw [t.toNat_op, Nat.mod_eq_of_lt hlt, BitVec.ofNat_toNat, BitVec.setWidth_eq]

/-- Settles O32: the command word is its opcode, and for each opcode the operand words that the encoder writes as zero
are the ignored ones (R43, R50). -/
theorem encodeDecodeCanonical : Obligations.EncodeDecodeCanonical := by
  intro t h
  obtain ⟨⟨hr, hop⟩, hclear⟩ : (t.rsvd = 0#28 ∧ t.opAssigned = true) ∧ t.ignoredClear = true := by
    simpa [Transaction.canonical, Transaction.wellFormed, Transaction.reservedClear] using h
  obtain ⟨hlo, hhi⟩ := t.opAssigned_iff.mp hop
  have hcmd := Transaction.cmd_eq_op hr
  rw [Transaction.ignoredClear] at hclear
  rw [decode, if_pos hr]
  generalize t.op.toNat = n at hlo hhi hcmd hclear ⊢
  obtain ⟨cmd, opa, opb, opc, opd⟩ := t
  interval_cases n
  all_goals
    refine ⟨_, rfl, ?_⟩
    simp_all [encode]

/-! ## Ignored operand words -/

/-- Settles O33: the command word is known in each case, and the command that it names does not contain the words that
change (R43). -/
theorem ignoredOperandsDoNotMatter : Obligations.IgnoredOperandsDoNotMatter := by
  intro t a b c d
  simp only [List.mem_cons, List.not_mem_nil, or_false]
  refine ⟨?_, fun h => ?_, ?_⟩
  · rintro (h | h | h | h | h) <;> simp [decode, Transaction.toNat_op, Transaction.rsvd_eq_zero_iff, h]
  · simp [decode, Transaction.toNat_op, Transaction.rsvd_eq_zero_iff, h]
  · rintro (h | h | h | h | h) <;> simp [decode, Transaction.toNat_op, Transaction.rsvd_eq_zero_iff, h]

/-- Settles O35: the table words are read off as numbers, byte by byte. -/
theorem sampleWordsDecode : Obligations.SampleWordsDecode := by
  unfold Obligations.SampleWordsDecode
  decide

end Sys2Proof
end

section
/-! SUPPORT. One equation for every command: the state that it leaves, field by field, and what that says of its frame,
of repeating it and of a read of an undefined W (R31, R45, R94). -/

namespace Sys2Proof.Machine

/-! ## The word and the response that a command leaves -/

/-- The word that W holds after a command, of the word held before it (R76 to R88). -/
def wordAfter : Instr → Word → Word
  | .create fx fy fz fw, _ => pack (q10 fx) (q10 fy) (q10 fz) (q2 fw)
  | .fromraw r, _ => r
  | .getx, v => v
  | .gety, v => v
  | .getz, v => v
  | .getw, v => v
  | .setx f, v => insertField v .x (writerLevel .x f)
  | .sety f, v => insertField v .y (writerLevel .y f)
  | .setz f, v => insertField v .z (writerLevel .z f)
  | .setw f, v => insertField v .w (writerLevel .w f)
  | .setxyz fx fy fz, v => insertXYZ v (q10 fx) (q10 fy) (q10 fz)
  | .rawval, v => v

/-- The response of a command, of the word held, or none where the command has none (R45). -/
def responseOf : Instr → Word → Option Word
  | .create _ _ _ _, _ => none
  | .fromraw _, _ => none
  | .getx, v => some (normalize (fieldLevel v .x) 1023)
  | .gety, v => some (normalize (fieldLevel v .y) 1023)
  | .getz, v => some (normalize (fieldLevel v .z) 1023)
  | .getw, v => some (normalize (fieldLevel v .w) 3)
  | .setx _, _ => none
  | .sety _, _ => none
  | .setz _, _ => none
  | .setw _, _ => none
  | .setxyz _ _ _, _ => none
  | .rawval, v => some v

/-- The commands that read W are those that do not define it (R94, R105). -/
theorem readsW_eq_not_definesW (i : Instr) : readsW i = !definesW i := by
  cases i <;> rfl

/-- A command that defines W leaves a word that does not depend on the one held (R105). -/
theorem wordAfter_of_definesW {i : Instr} (h : definesW i = true) (u v : Word) : wordAfter i u = wordAfter i v := by
  cases i with
  | create | fromraw => rfl
  | getx | gety | getz | getw | setx | sety | setz | setw | setxyz | rawval => simp [definesW] at h

/-- A command that defines W has no response (R45). -/
theorem responseOf_of_definesW {i : Instr} (h : definesW i = true) (v : Word) : responseOf i v = none := by
  cases i with
  | create | fromraw => rfl
  | getx | gety | getz | getw | setx | sety | setz | setw | setxyz | rawval => simp [definesW] at h

/-- A command with a response writes no word (R31). -/
theorem wordAfter_of_hasResponse {i : Instr} (h : hasResponse i = true) (v : Word) : wordAfter i v = v := by
  cases i with
  | getx | gety | getz | getw | rawval => rfl
  | create | fromraw | setx | sety | setz | setw | setxyz => simp [hasResponse] at h

theorem isSome_responseOf (i : Instr) (v : Word) : (responseOf i v).isSome = hasResponse i := by
  cases i <;> rfl

/-- The word after a writer has the quantized operand in its field and the other fields as they were (R68). -/
theorem fieldLevel_insertField_writerLevel (v : Word) (f g : Field) (a : Word) :
    fieldLevel (insertField v f (writerLevel f a)) g = if g = f then quantize a (maxLevel f) else fieldLevel v g := by
  rw [writerLevel_eq, fieldLevel_insertField v f g (quantize_le_maxLevel f a)]

/-- A command keeps the level of every field that it does not write (R17 to R20). -/
theorem fieldLevel_wordAfter {i : Instr} {f : Field} (h : writesField i f = false) (v : Word) :
    fieldLevel (wordAfter i v) f = fieldLevel v f := by
  cases i with
  | create | fromraw => simp [writesField] at h
  | getx | gety | getz | getw | rawval => rfl
  | setx | sety | setz | setw =>
    rw [wordAfter, fieldLevel_insertField_writerLevel, if_neg (by simpa [writesField] using h)]
  | setxyz fx fy fz =>
    obtain rfl : f = .w := by simpa [writesField] using h
    rw [wordAfter, insertXYZ_eq_pack, fieldLevel, unpack_pack, fieldLevel]

/-- Repeating a writer changes nothing more (R69). -/
theorem insertField_writerLevel_idem (v : Word) (f : Field) (a : Word) :
    insertField (insertField v f (writerLevel f a)) f (writerLevel f a) = insertField v f (writerLevel f a) := by
  apply eq_of_fieldLevel_eq
  intro g
  rw [fieldLevel_insertField_writerLevel, fieldLevel_insertField_writerLevel]
  split <;> rfl

/-- Repeating a command changes nothing more of W (R31). -/
theorem wordAfter_idem (i : Instr) (v : Word) : wordAfter i (wordAfter i v) = wordAfter i v := by
  cases i with
  | create | fromraw | getx | gety | getz | getw | rawval => rfl
  | setx | sety | setz | setw => exact insertField_writerLevel_idem v _ _
  | setxyz => simp only [wordAfter, insertXYZ_eq_pack, unpack_pack]

/-- A command's response is the same before and after it: it writes no word or has none. -/
theorem responseOf_wordAfter (i : Instr) (v : Word) : responseOf i (wordAfter i v) = responseOf i v := by
  cases i <;> rfl

/-! ## The state that a command leaves -/

/-- The state after a command: the word and the response that it leaves, W defined where it was or where the command
defines it, and the mark raised where the command read an undefined W (R31, R45, R94, R105). -/
def State.after (i : Instr) (s : State) : State :=
  { s with
    w := wordAfter i s.w
    wDefined := s.wDefined || definesW i
    rsp := responseOf i s.w
    faulted := s.faulted || (readsW i && !s.wDefined) }

/-- Every command completes in every state, in the state after it. -/
theorem exec_eq_after (i : Instr) (s : State) : exec i s = .next (s.after i) := by
  cases i with
  | create | fromraw => simp [State.after, State.construct, wordAfter, responseOf, definesW, readsW]
  | getx | gety | getz | getw | rawval =>
    simp [State.after, State.noteRead, State.respond, wordAfter, responseOf, definesW, readsW]
  | setx | sety | setz | setw | setxyz =>
    simp [State.after, State.noteRead, State.store, wordAfter, writerLevel, responseOf, definesW, readsW]

@[simp] theorem State.after_w (i : Instr) (s : State) : (s.after i).w = wordAfter i s.w := rfl
@[simp] theorem State.after_wDefined (i : Instr) (s : State) : (s.after i).wDefined = (s.wDefined || definesW i) := rfl
@[simp] theorem State.after_rsp (i : Instr) (s : State) : (s.after i).rsp = responseOf i s.w := rfl
@[simp] theorem State.after_pending (i : Instr) (s : State) : (s.after i).pending = s.pending := rfl
@[simp] theorem State.after_faulted (i : Instr) (s : State) :
    (s.after i).faulted = (s.faulted || (readsW i && !s.wDefined)) := rfl
@[simp] theorem State.after_refused (i : Instr) (s : State) : (s.after i).refused = s.refused := rfl
@[simp] theorem State.after_resets (i : Instr) (s : State) : (s.after i).resets = s.resets := rfl

/-- Issuing a command twice in a row leaves the state that issuing it once leaves (R31). -/
theorem State.after_after (i : Instr) (s : State) : (s.after i).after i = s.after i := by
  refine State.ext_fields (wordAfter_idem i s.w) ?_ (responseOf_wordAfter i s.w) rfl ?_ rfl rfl
  · simp
  · cases h : s.wDefined <;> simp +contextual [h]

theorem execAll_cons (i : Instr) (is : List Instr) (s : State) : execAll (i :: is) s = execAll is (s.after i) :=
  execAll_cons_of_next (exec_eq_after i s) is

/-- Settles O14: on an undefined W a command that reads it computes from the word held, as on a defined one. -/
theorem undefinedWordRunsAndIsMarked : Obligations.UndefinedWordRunsAndIsMarked := by
  intro i s hi hs
  have hdef : definesW i = false := by simpa [readsW_eq_not_definesW] using hi
  refine ⟨_, exec_eq_after i _, (exec_eq_after i s).trans (congrArg _ ?_)⟩
  refine State.ext_fields rfl ?_ rfl rfl ?_ rfl rfl
  · simp [hs, hdef]
  · simp [hs, hi]

/-- Settles O15: the fields of the state after a command are the frame. -/
theorem commandFrame : Obligations.CommandFrame := fun i s =>
  ⟨s.after i, exec_eq_after i s, fun _ hf => fieldLevel_wordAfter hf s.w, fun h => wordAfter_of_hasResponse h s.w,
    rfl, isSome_responseOf i s.w, rfl, rfl, rfl, rfl⟩

/-- Settles O16: the state after a command is a fixed point of the command. -/
theorem commandsAreIdempotent : Obligations.CommandsAreIdempotent := fun i s =>
  ⟨⟨s.after i, execAll_cons i [] s⟩, by rw [execAll_cons, execAll_cons, execAll_cons, State.after_after]⟩

end Sys2Proof.Machine
end

section
/-! SUPPORT. Steps: what one event can do in the step and in the checked step, said once, and what every step keeps
(60_exceptions.md section 2, 70_reset_and_hazards.md section 1). -/

namespace Sys2Proof.Machine

/-! ## What one event can do -/

theorem State.takeEvent_eq {s : State} {e : HostEvent} {es : List HostEvent} (hp : s.pending = e :: es) :
    s.takeEvent = { s with pending := es } := by
  rw [State.takeEvent, hp, List.tail_cons]

theorem step_of_idle {s : State} (hp : s.pending = []) : step s = .next s ∧ checkedStep s = .next s := by
  simp [step, checkedStep, stepWith, hp]

theorem step_of_reset {s : State} {es : List HostEvent} (hp : s.pending = .reset :: es) :
    step s = .next s.takeEvent.assertReset ∧ checkedStep s = .next s.takeEvent.assertReset := by
  simp [step, checkedStep, stepWith, hp]

theorem step_of_decode_ok {s : State} {t : Transaction} {es : List HostEvent} {i : Instr}
    (hp : s.pending = .command t :: es) (hd : decode t = .ok i) : step s = .next (s.takeEvent.after i) :=
  (stepWith_of_decode_ok hp hd).trans (exec_eq_after i _)

/-- The check lets a command run to the state after it, which is marked only if the state before was; or the command
reads an undefined W, and the check stops it, where the state after it is marked (R94). -/
theorem checkedExec_eq_after_or_fault (i : Instr) (s : State) :
    (checkedExec i s = .next (s.after i) ∧ (s.after i).faulted = s.faulted) ∨
    (readsW i = true ∧ s.wDefined = false ∧ checkedExec i s = .fault (.undefinedW (opcode i)) ∧
      (s.after i).faulted = true) := by
  cases hi : readsW i with
  | false => exact .inl ⟨(checkedExec_of_not_reads hi s).trans (exec_eq_after i s), by simp [hi]⟩
  | true =>
    cases hs : s.wDefined with
    | true => exact .inl ⟨(checkedExec_of_defined hs i).trans (exec_eq_after i s), by simp [hs]⟩
    | false => exact .inr ⟨rfl, rfl, checkedExec_fault hi hs, by simp [hi, hs]⟩

/-- What one event can be, and what the step and the checked step do of it (R12, R91, R93, R94, R106). -/
inductive StepCase (s : State) : Prop
  /-- There is no event. -/
  | idle (hp : s.pending = []) (hs : step s = .next s) (hc : checkedStep s = .next s)
  /-- Reset is asserted. -/
  | reset (es : List HostEvent) (hp : s.pending = .reset :: es) (hs : step s = .next s.takeEvent.assertReset)
      (hc : checkedStep s = .next s.takeEvent.assertReset)
  /-- The decoder refuses the command word. -/
  | refused (t : Transaction) (es : List HostEvent) (e : DecodeError) (hp : s.pending = .command t :: es)
      (hd : decode t = .error e) (hs : step s = .refused (refusalOf t.cmd e))
      (hc : checkedStep s = .refused (refusalOf t.cmd e))
  /-- A command runs that the check lets run; it leaves the mark `faulted` as it is. -/
  | runs (t : Transaction) (es : List HostEvent) (i : Instr) (hp : s.pending = .command t :: es)
      (hd : decode t = .ok i) (hs : step s = .next (s.takeEvent.after i))
      (hc : checkedStep s = .next (s.takeEvent.after i)) (hf : (s.takeEvent.after i).faulted = s.faulted)
  /-- A command reads an undefined W: the check stops it, and without the check it raises the mark. -/
  | marked (t : Transaction) (es : List HostEvent) (i : Instr) (hp : s.pending = .command t :: es)
      (hd : decode t = .ok i) (hi : readsW i = true) (hw : s.wDefined = false)
      (hs : step s = .next (s.takeEvent.after i)) (hc : checkedStep s = .fault (.undefinedW (opcode i)))
      (hf : (s.takeEvent.after i).faulted = true)

theorem step_cases (s : State) : StepCase s := by
  match hp : s.pending with
  | [] => exact .idle hp (step_of_idle hp).1 (step_of_idle hp).2
  | .reset :: es => exact .reset es hp (step_of_reset hp).1 (step_of_reset hp).2
  | .command t :: es =>
    cases hd : decode t with
    | error e => exact .refused t es e hp hd (stepWith_of_decode_error hp hd) (stepWith_of_decode_error hp hd)
    | ok i =>
      have hs := step_of_decode_ok hp hd
      have hchecked : checkedStep s = checkedExec i s.takeEvent := stepWith_of_decode_ok hp hd
      obtain ⟨hc, hf⟩ | ⟨hi, hw, hc, hf⟩ := checkedExec_eq_after_or_fault i s.takeEvent
      · exact .runs t es i hp hd hs (hchecked.trans hc) hf
      · exact .marked t es i hp hd hi hw hs (hchecked.trans hc) hf

/-! ## The response invariant -/

/-- No state after a command breaks the response invariant: a command that reads an undefined W raises the mark, and
one that does not read W defines it. -/
theorem responseInv_after (i : Instr) (s : State) : ResponseInv (s.after i) := by
  rw [ResponseInv, State.after_wDefined, State.after_faulted, readsW_eq_not_definesW]
  cases s.wDefined <;> cases definesW i <;> simp

/-- Every step keeps the response invariant, whatever its outcome: a reset and a refusal leave no response. -/
theorem responseInv_advance {s : State} (h : ResponseInv s) : ResponseInv (advance s) := by
  rw [advance]
  cases step_cases s with
  | idle _ hs _ => rwa [hs]
  | reset _ _ hs _ => exact hs ▸ .inr (.inr rfl)
  | refused _ _ _ _ _ hs _ => exact hs ▸ .inr (.inr rfl)
  | runs _ _ i _ _ hs _ _ | marked _ _ i _ _ _ _ hs _ _ => exact hs ▸ responseInv_after i _

/-- Settles O53: a step that goes on is an advance. -/
theorem stepKeepsResponseInvariant : Obligations.StepKeepsResponseInvariant := by
  refine ⟨fun s t h hs => ?_, fun s => responseInv_advance⟩
  have hadvance : advance s = t := by rw [advance, hs, settle_next]
  exact hadvance ▸ responseInv_advance h

/-- Settles O54: there is no response after reset. -/
theorem resetMeetsResponseInvariant : Obligations.ResetMeetsResponseInvariant :=
  .inr (.inr State.reset_rsp)

/-! ## One event at a time -/

/-- Settles O20: the state with the event taken is the state with the later events pending. -/
theorem stepRunsDecodedCommand : Obligations.StepRunsDecodedCommand := by
  intro s t es i hp hd
  rw [← State.takeEvent_eq hp]
  exact ⟨stepWith_of_decode_ok hp hd, stepWith_of_decode_ok hp hd⟩

/-- Settles O21: with no event the step changes nothing. -/
theorem blockStartsNothing : Obligations.BlockStartsNothing :=
  fun _ hp => (step_of_idle hp).1

/-- Settles O28: the fields of the reset state. -/
theorem resetLeavesWordUndefined : Obligations.ResetLeavesWordUndefined :=
  ⟨State.word?_of_undefined State.reset_wDefined, State.reset_rsp, State.reset_pending, State.reset_faulted,
    State.reset_refused⟩

/-- Settles O29: both steps take the reset event and restart the block with the later events pending. -/
theorem resetEventRestartsBlock : Obligations.ResetEventRestartsBlock := by
  intro s es hp
  obtain ⟨hs, hc⟩ := step_of_reset hp
  exact ⟨_, hs, hc, State.word?_of_undefined rfl, rfl, rfl, rfl, by simp [hp]⟩

/-- Settles O57: a vector with one entry replaced has the new entry there and the old ones elsewhere. -/
theorem blocksAreIndependent : Obligations.BlocksAreIndependent := by
  intro n blocks i t hs
  refine ⟨blocks.set i t, by rw [stepBlock, hs], by simp, fun j hj => ?_⟩
  have hne : (i : Nat) ≠ j := fun h => hj (Fin.ext h.symm)
  simp [hne]

/-! ## Why a step stops -/

/-- A refusal of the decoder is a reserved opcode under reserved bits zero, or reserved bits that are not zero
(R48, R95). -/
theorem refusalOf_of_decode_error {t : Transaction} {e : DecodeError} (hd : decode t = .error e) :
    (t.rsvd = 0#28 ∧ t.op ∈ [0x0#4, 0xD#4, 0xE#4, 0xF#4] ∧ refusalOf t.cmd e = .reservedOpcode t.op) ∨
    (t.rsvd ≠ 0#28 ∧ refusalOf t.cmd e = .reservedBits t.cmd) := by
  by_cases hr : t.rsvd = 0#28
  · cases ho : t.opAssigned with
    | false =>
      cases (decode_of_reserved_opcode hr ho).symm.trans hd
      exact .inl ⟨hr, t.opAssigned_eq_false_iff.mp ho, rfl⟩
    | true =>
      obtain ⟨i, hi, -⟩ := decode_of_wellFormed (t := t)
        (by simp [Transaction.wellFormed, Transaction.reservedClear, hr, ho])
      cases hi.symm.trans hd
  · cases (decode_of_reserved_bits hr).symm.trans hd
    exact .inr ⟨hr, rfl⟩

/-- A step never faults: every command completes, and a command word is refused (log 2). -/
theorem step_ne_fault (s : State) (r : Fault) : step s ≠ .fault r := by
  cases step_cases s <;> simp [*]

/-- Settles O24: the cases of a step name every stop with its cause. -/
theorem onlyListedReasonsStop : Obligations.OnlyListedReasonsStop := by
  refine ⟨step_ne_fault, fun s r h => ?_, fun s r h => ?_, fun s t es i hp hd hw => ?_⟩
  · cases step_cases s with
    | marked t es i hp hd hi hw _ hc _ =>
      cases hc.symm.trans h
      exact ⟨t, es, i, hp, hd, hi, hw, rfl⟩
    | idle | reset | refused | runs => simp_all
  · cases step_cases s with
    | refused t es e hp hd hs hc =>
      obtain rfl : refusalOf t.cmd e = r := by simpa [hs, hc] using h
      exact ⟨t, es, hp, refusalOf_of_decode_error hd⟩
    | idle | reset | runs | marked => simp_all
  · have hs := step_of_decode_ok hp hd
    have hc : checkedStep s = exec i s.takeEvent :=
      (stepWith_of_decode_ok hp hd).trans (checkedExec_of_defined (s := s.takeEvent) hw i)
    exact ⟨_, hs, hc.trans (exec_eq_after i _)⟩

/-- Settles O25: the two steps differ only at a command that reads an undefined W, which the step marks. -/
theorem checkedStepRefinesStep : Obligations.CheckedStepRefinesStep := by
  refine ⟨fun s t h => ?_, fun s r => ?_, fun s r h => ?_⟩
  · cases step_cases s with
    | idle _ hs hc =>
      cases hc.symm.trans h
      exact ⟨hs, id⟩
    | reset _ _ hs hc =>
      cases hc.symm.trans h
      exact ⟨hs, fun hf => absurd hf (by simp)⟩
    | runs _ _ _ _ _ hs hc hf =>
      cases hc.symm.trans h
      exact ⟨hs, hf.symm.trans⟩
    | refused | marked => simp_all
  · cases step_cases s <;> simp [*]
  · cases step_cases s with
    | marked _ _ _ _ _ _ _ hs _ hf => exact ⟨_, hs, hf⟩
    | idle | reset | refused | runs => simp_all

/-! ## What every step but a reset keeps -/

/-- A property that no event taken, no response, no mark and no command ends, holds after every step and checked step
but a reset. -/
theorem advance_keeps {P : State → Prop} {s : State} (hno : ∀ es, s.pending ≠ .reset :: es) (h : P s)
    (hfault : ∀ r, P (settle s (.fault r))) (hrefused : ∀ r, P (settle s (.refused r)))
    (hafter : ∀ i, P (s.takeEvent.after i)) : P (advance s) ∧ P (checkedAdvance s) := by
  rw [advance, checkedAdvance]
  cases step_cases s with
  | idle _ hs hc =>
    rw [hs, hc]
    exact ⟨h, h⟩
  | reset es hp _ _ => exact absurd hp (hno es)
  | refused _ _ _ _ _ hs hc =>
    rw [hs, hc]
    exact ⟨hrefused _, hrefused _⟩
  | runs _ _ i _ _ hs hc _ =>
    rw [hs, hc]
    exact ⟨hafter i, hafter i⟩
  | marked _ _ i _ _ _ _ hs hc _ =>
    rw [hs, hc]
    exact ⟨hafter i, hfault _⟩

/-- No step but a reset clears the mark `faulted` (R94). -/
theorem faulted_advance {s : State} (hno : ∀ es, s.pending ≠ .reset :: es) (h : s.faulted = true) :
    (advance s).faulted = true ∧ (checkedAdvance s).faulted = true :=
  advance_keeps (P := (·.faulted = true)) hno h (fun _ => rfl) (fun _ => h) (fun i => by simp [h])

/-- Settles O26: of the events only a command that reads an undefined W raises the mark. -/
theorem faultMarkIsSticky : Obligations.FaultMarkIsSticky := by
  refine ⟨fun s => faulted_advance, fun s hf => ⟨fun h => ?_, ?_⟩⟩
  · rw [advance] at h
    cases step_cases s with
    | marked t es i hp hd hi hw _ _ _ => exact ⟨t, es, i, hp, hd, hi, hw⟩
    | runs _ _ _ _ _ hs _ hm =>
      rw [hs, settle_next, hm, hf] at h
      cases h
    | idle | reset | refused => simp_all
  · rintro ⟨t, es, i, hp, hd, hi, hw⟩
    rw [advance, step_of_decode_ok hp hd]
    simp [hi, hw]

/-- Settles O27: the definedness of W after a command is that before it, or the command's. -/
theorem definedUntilNextReset : Obligations.DefinedUntilNextReset := by
  refine ⟨fun i s h => ⟨_, exec_eq_after i s, by simp [h]⟩, fun s h hno => ?_⟩
  exact advance_keeps (P := (·.wDefined = true)) hno h (fun _ => h) (fun _ => h) (fun i => by simp [h])

end Sys2Proof.Machine
end

section
/-! SUPPORT. Component writes (43_write.md) continued: the writer of the 2-bit field (R85), and a write followed by a
read of the same field (R109). -/

namespace Sys2Proof.Machine

/-- Settles O10: `SETW` is the writer of `w`; in the worked example the readers follow the writer one by one, each on
the word that it left. -/
theorem setwWritesOnlyW : Obligations.SetwWritesOnlyW := by
  obtain ⟨hdecode, hdefined, hundefined⟩ := writerOf_spec .w
  refine ⟨hdecode, hdefined, hundefined, fun a s t ht => ⟨?_, ?_⟩, fun s _ hw => ?_⟩
  · exact BitVec.eq_of_toNat_eq ((fieldLevel_of_exec_writerOf (f := .w) ht).trans (toNat_q2 a).symm)
  · exact extractLsb'_of_exec_writerOf (f := .w) ht (by decide) (by decide)
  · obtain ⟨t, ht, htw⟩ := exists_exec_writerOf .w (a := 0x3EAA7EFA) (v := 0x40000000) hw (by decide)
    obtain ⟨tx, hx, hxrsp, hxw⟩ := exists_exec_readerOf .x (v := 0x00000000) htw (by decide)
    obtain ⟨ty, hy, hyrsp, hyw⟩ := exists_exec_readerOf .y (v := 0x00000000) (hxw.trans htw) (by decide)
    obtain ⟨tz, hz, hzrsp, hzw⟩ :=
      exists_exec_readerOf .z (v := 0x00000000) (hyw.trans (hxw.trans htw)) (by decide)
    obtain ⟨tw, hw', hwrsp, -⟩ :=
      exists_exec_readerOf .w (v := 0x3EAAAAAB) (hzw.trans (hyw.trans (hxw.trans htw))) (by decide)
    exact ⟨t, tx, ty, tz, tw, ht, htw, hx, hxrsp, hy, hyrsp, hz, hzrsp, hw', hwrsp⟩

/-- The reader of a field, right after its writer, responds with the normalised level of the operand (R109). -/
theorem exists_execAll_writerOf_readerOf (f : Field) (a : Word) (s : State) :
    ∃ t, execAll [writerOf f a, readerOf f] s = .next t ∧
      t.rsp = some (normalize (quantize a (maxLevel f)) (maxLevel f)) := by
  rw [execAll_writerOf_cons]
  refine ⟨_, execAll_cons_of_next (exec_readerOf f _) [], ?_⟩
  rw [State.respond_rsp, State.store_w, fieldLevel_insertField_writerLevel, if_pos rfl]

/-- Settles O17: the four fields' writers and readers, with the level as the field's quantizer gives it. -/
theorem readAfterWriteReturnsLevel : Obligations.ReadAfterWriteReturnsLevel := by
  intro a s
  rw [toNat_q10, toNat_q2]
  exact ⟨exists_execAll_writerOf_readerOf .x a s, exists_execAll_writerOf_readerOf .y a s,
    exists_execAll_writerOf_readerOf .z a s, exists_execAll_writerOf_readerOf .w a s⟩

end Sys2Proof.Machine
end

section
/-! SUPPORT. Runs (20_memory.md section 4, 70_reset_and_hazards.md sections 1 and 4): a queue of commands, the host's
boot rule, and the word held after reset. -/

namespace Sys2Proof.Machine

/-- A run whose first step goes on is the run from the state that it leaves. -/
theorem core_run_succ {s t : State} (hs : step s = .next t) (n : Nat) :
    Host.Core.run Sys2Proof.core (n + 1) s = Host.Core.run Sys2Proof.core n t := by
  have hcore : Sys2Proof.core.step s = .next t := hs
  simp only [Host.Core.run, hcore]

/-- Settles O52: each step decodes the command that was encoded and leaves the later ones pending. -/
theorem queueRunsInIssueOrder : Obligations.QueueRunsInIssueOrder := by
  intro is
  induction is with
  | nil => exact fun s => rfl
  | cons i is ih =>
    intro s
    have hs := step_of_decode_ok
      (s := { s with pending := (i :: is).map fun i => .command (encode i) }) rfl (decode_encode i)
    rw [execAll_cons, List.length_cons, core_run_succ hs]
    exact ih (s.after i)

/-! ## The boot rule -/

/-- Under the boot rule an event is taken by both steps alike, and the rule holds of the events left (R108). -/
theorem step_of_bootRule {s : State} {e : HostEvent} {es : List HostEvent} (hp : s.pending = e :: es)
    (hclean : Clean s) (hrule : followsBootRule s.wDefined s.pending = true) :
    ∃ t, step s = .next t ∧ checkedStep s = .next t ∧ t.pending = es ∧ Clean t ∧
      followsBootRule t.wDefined t.pending = true := by
  cases step_cases s with
  | idle hp' => simp [hp'] at hp
  | reset es' hp' hs hc =>
    obtain ⟨-, rfl⟩ : HostEvent.reset = e ∧ es' = es := by simpa [hp'] using hp
    exact ⟨_, hs, hc, by simp [hp'], ⟨rfl, rfl⟩, by simpa [hp', followsBootRule] using hrule⟩
  | refused t es' _ hp' hd => simp [hp', followsBootRule, hd] at hrule
  | runs t es' i hp' hd hs hc hf =>
    obtain ⟨-, rfl⟩ : HostEvent.command t = e ∧ es' = es := by simpa [hp'] using hp
    obtain ⟨-, hrest⟩ : _ ∧ followsBootRule (s.wDefined || definesW i) es' = true := by
      simpa [hp', followsBootRule, hd] using hrule
    exact ⟨_, hs, hc, by simp [hp'], ⟨hf.trans hclean.1, hclean.2⟩, by simpa [hp'] using hrest⟩
  | marked t es' i hp' hd hi hw => simp [hp', followsBootRule, hd, hi, hw] at hrule

/-- Settles O55: the boot rule is kept event by event. -/
theorem bootRuleRunsClean : Obligations.BootRuleRunsClean := by
  intro s
  generalize hn : s.pending = es
  induction es generalizing s with
  | nil => exact fun hclean _ => ⟨s, rfl, hn, hclean, rfl⟩
  | cons e es ih =>
    intro hclean hrule
    obtain ⟨t, hs, hc, hpt, hct, hrt⟩ := step_of_bootRule hn hclean (hn ▸ hrule)
    obtain ⟨u, hrun, hpu, hcu, hchecked⟩ := ih t hpt hct (hpt ▸ hrt)
    refine ⟨u, (core_run_succ hs _).trans hrun, hpu, hcu, ?_⟩
    have hadvance : checkedAdvance s = t := by rw [checkedAdvance, hc, settle_next]
    rwa [List.length_cons, checkedRunFor, runWith_succ, hadvance]

/-! ## The word held after reset -/

/-- Every step takes the oldest event, whatever its outcome. -/
theorem pending_advance (s : State) : (advance s).pending = s.pending.tail := by
  rw [advance]
  cases step_cases s with
  | idle hp hs => rw [hs, settle_next, hp, List.tail_nil]
  | reset _ _ hs | refused _ _ _ _ _ hs | runs _ _ _ _ _ hs | marked _ _ _ _ _ _ _ hs => rw [hs]; rfl

theorem no_reset_advance {s : State} (hno : ∀ e ∈ s.pending, e ≠ .reset) :
    ∀ e ∈ (advance s).pending, e ≠ .reset :=
  fun e he => hno e (List.mem_of_mem_tail (pending_advance s ▸ he))

/-- A run without a reset that ends unmarked was unmarked after its first step (R94). -/
theorem faulted_of_runFor {n : Nat} {s : State} (hno : ∀ e ∈ s.pending, e ≠ .reset)
    (h : (runFor n s).faulted = false) : s.faulted = false := by
  induction n generalizing s with
  | zero => exact h
  | succ n ih =>
    by_contra hs
    have hhead : ∀ es, s.pending ≠ .reset :: es := fun es hp => hno .reset (by simp [hp]) rfl
    exact absurd (ih (no_reset_advance hno) h) (by simp [(faulted_advance hhead (by simpa using hs)).1])

/-- An unmarked step of a block whose W is undefined depends on the word held in no way but that it keeps it: either
the command defines W, and the word held is forgotten, or W stays undefined and the word is kept (R105). -/
theorem advance_other_word {s : State} (v : Word) (hw : s.wDefined = false) (hno : ∀ e ∈ s.pending, e ≠ .reset)
    (hf : (advance s).faulted = false) :
    advance { s with w := v } = advance s ∨
      (advance { s with w := v } = { advance s with w := v } ∧ (advance s).wDefined = false) := by
  rw [advance] at hf
  rw [advance, advance]
  cases step_cases s with
  | idle hp hs =>
    rw [hs, (step_of_idle (s := { s with w := v }) hp).1]
    exact .inr ⟨rfl, hw⟩
  | reset es hp => exact absurd rfl (hno .reset (by simp [hp]))
  | refused t es e hp hd hs =>
    rw [hs, (step_of_decode_error (s := { s with w := v }) hp hd).1]
    exact .inr ⟨rfl, hw⟩
  | runs t es i hp hd hs | marked t es i hp hd _ _ hs =>
    have hi : readsW i = false := by
      rw [hs] at hf
      simpa [hw] using (Bool.or_eq_false_iff.mp hf).2
    have hdef : definesW i = true := by simpa [readsW_eq_not_definesW] using hi
    rw [hs, step_of_decode_ok (s := { s with w := v }) hp hd]
    refine .inl (State.ext_fields (wordAfter_of_definesW hdef _ _) rfl ?_ rfl rfl rfl rfl)
    simp [responseOf_of_definesW hdef]

theorem observe_succ {s : State} {e : HostEvent} {es : List HostEvent} (hp : s.pending = e :: es) (n : Nat) :
    observe (n + 1) s = (advance s).rsp.toList ++ observe n (advance s) := by
  rw [observe, observeWith, hp]
  rfl

/-- Settles O56: while W is undefined the two runs differ in the word held alone, and from the step that defines W they
are the same. -/
theorem resetWordIsNotObservable : Obligations.ResetWordIsNotObservable := by
  intro n
  induction n with
  | zero => exact fun s v hw _ _ => ⟨rfl, by simp [runFor, hw]⟩
  | succ n ih =>
    intro s v hw hno hrun
    have hno' := no_reset_advance hno
    have hother := advance_other_word v hw hno (faulted_of_runFor (n := n) hno' hrun)
    have hrsp : (advance { s with w := v }).rsp = (advance s).rsp := by
      obtain h | ⟨h, -⟩ := hother <;> rw [h]
    have hrest : observe n (advance { s with w := v }) = observe n (advance s) ∧
        (runFor n (advance { s with w := v })).word? = (runFor n (advance s)).word? := by
      obtain h | ⟨h, hw'⟩ := hother
      · rw [h]
        exact ⟨rfl, rfl⟩
      · rw [h]
        exact ih (advance s) v hw' hno' hrun
    refine ⟨?_, hrest.2⟩
    by_cases hp : s.pending = []
    · simp [observe, observeWith, hp]
    · obtain ⟨e, es, hp⟩ := List.exists_cons_of_ne_nil hp
      rw [observe_succ hp, observe_succ (s := { s with w := v }) hp, hrsp, hrest.1]

end Sys2Proof.Machine
end

section
/-! SUPPORT. Binary32 (R9) continued: the word order is the order of magnitudes, and rounding is to the nearest datum
with ties to the even fraction. -/

namespace Sys2Proof.Machine

theorem magUnits_lt_iff {a b : Word} (ha : a.toNat < 2 ^ 31) (hb : b.toNat < 2 ^ 31) :
    magUnits a < magUnits b ↔ a.toNat < b.toNat := by
  refine ⟨fun h => ?_, magUnits_lt_magUnits hb⟩
  by_contra hle
  exact absurd h (magUnits_le_magUnits ha (not_lt.mp hle)).not_gt

theorem eq_of_magUnits_eq {a b : Word} (ha : a.toNat < 2 ^ 31) (hb : b.toNat < 2 ^ 31)
    (h : magUnits a = magUnits b) : a = b := by
  have hab := magUnits_lt_iff ha hb
  have hba := magUnits_lt_iff hb ha
  exact BitVec.eq_of_toNat_eq (by omega)

/-- Settles O38: magnitudes follow the word order strictly, so they decide it. -/
theorem magnitudeFollowsWordOrder : Obligations.MagnitudeFollowsWordOrder :=
  fun _ _ ha hb => (magUnits_lt_iff ha hb).symm

/-- A word below that of plus infinity is a finite datum, and its value is its magnitude (R9). -/
theorem f32val_of_lt {b : Word} (hb : b.toNat < 0x7F800000) : f32val b = .finite (magUnits b) := by
  have hexp : f32Exponent b ≠ 255 := by
    rw [f32Exponent_eq]
    omega
  have hsign : f32Negative b = false := by
    rw [f32Negative, BitVec.getLsbD, Nat.testBit_lt_two_pow (by omega)]
  simp [f32val, isNaN, hexp, hsign]

/-! ## The nearest integer -/

section NearestInteger

variable (n : Nat) {d : Nat} (hd : 0 < d)

include hd

/-- The rounded quotient is off by the remainder, or by what the remainder leaves of the divisor, whichever is less. -/
theorem natAbs_divHalfEven_error : ((divHalfEven n d * d : Int) - n).natAbs = min (n % d) (d - n % d) := by
  have hmod := Nat.mod_lt n hd
  have hdiv : (n : Int) = (n / d : Nat) * d + (n % d : Nat) := by exact_mod_cast (Nat.div_add_mod' n d).symm
  obtain ⟨hq, hr⟩ | ⟨hq, hr⟩ := divHalfEven_cases n d
  · rw [hq, min_eq_left (by omega)]
    omega
  · rw [hq, min_eq_right (by omega), Nat.cast_succ, add_one_mul]
    omega

variable {j : Nat} (hj : j ≠ divHalfEven n d)

include hj

/-- Another integer is off by at least what the rounded quotient leaves of one unit. -/
theorem le_error_of_ne_divHalfEven :
    (d : Int) ≤ ((divHalfEven n d * d : Int) - n).natAbs + ((j * d : Int) - n).natAbs := by
  have hdist : (d : Int) ≤ ((j : Int) * d - divHalfEven n d * d).natAbs := by
    rw [← sub_mul, Int.natAbs_mul, Int.natAbs_natCast]
    have hpos : 1 ≤ ((j : Int) - divHalfEven n d).natAbs := by omega
    exact_mod_cast Nat.le_mul_of_pos_left d hpos
  omega

/-- No integer is nearer to the quotient than the rounded one. -/
theorem divHalfEven_nearest : ((divHalfEven n d * d : Int) - n).natAbs ≤ ((j * d : Int) - n).natAbs := by
  have herr := divHalfEven_error n hd
  have hother := le_error_of_ne_divHalfEven n hd hj
  omega

/-- Of two integers equally near the quotient the rounded one is even (R9). -/
theorem divHalfEven_even_of_tie (htie : ((divHalfEven n d * d : Int) - n).natAbs = ((j * d : Int) - n).natAbs) :
    divHalfEven n d % 2 = 0 := by
  have herr := natAbs_divHalfEven_error n hd
  have hother := le_error_of_ne_divHalfEven n hd hj
  have hhalf : 2 * (n % d) = d := by
    have hmod := Nat.mod_lt n hd
    omega
  simp only [divHalfEven]
  split_ifs <;> omega

end NearestInteger

/-! ## The nearest datum -/

/-- Against a last place of 2^k units a datum is either a whole number of them or lies below the binade where they
begin. -/
theorem magUnits_multiple_or_lt (b : Word) (k : Nat) :
    (∃ j, magUnits b = j * 2 ^ k) ∨ (0 < k ∧ magUnits b < 2 ^ (23 + k)) := by
  by_cases hk : k ≤ f32Exponent b - 1
  · left
    obtain ⟨c, hc⟩ : ∃ c, magUnits b = c * 2 ^ (f32Exponent b - 1) := by
      cases he : f32Exponent b with
      | zero => exact ⟨f32Fraction b, by simp [magUnits_of_exponent_zero he]⟩
      | succ e => exact ⟨_, magUnits_of_exponent_succ he⟩
    exact ⟨c * 2 ^ (f32Exponent b - 1 - k), by rw [hc, mul_assoc, ← pow_add, Nat.sub_add_cancel hk]⟩
  · exact .inr ⟨by omega, (magUnits_lt_two_pow b).trans_le (Nat.pow_le_pow_right (by decide) (by omega))⟩

/-- The error of a multiple of the rounding's last place, as that of an integer against the quotient. -/
theorem mul_magUnits_of_multiple {b : Word} {j k : Nat} (h : magUnits b = j * 2 ^ k) (d : Nat) :
    (d * magUnits b : Int) = j * (d * 2 ^ k : Nat) := by
  rw [h]
  push_cast
  ring

/-- A datum below the binade of the quotient is farther off than the rounding: the least datum of the binade is
between. -/
theorem error_lt_of_below_binade {n d m : Nat} (hd : 0 < d) (hk : 0 < excessBits (n / d))
    (hm : m < 2 ^ (23 + excessBits (n / d))) :
    ((roundedSig n d * (d * 2 ^ excessBits (n / d) : Nat) : Int) - n).natAbs < ((d * m : Int) - n).natAbs := by
  have hleast : d * 2 ^ (23 + excessBits (n / d)) ≤ n :=
    (Nat.mul_le_mul_left d (two_pow_le_of_excessBits_pos hk)).trans (Nat.mul_div_le n d)
  have hlow : d * m < d * 2 ^ (23 + excessBits (n / d)) := Nat.mul_lt_mul_of_pos_left hm hd
  have hround : ((roundedSig n d * (d * 2 ^ excessBits (n / d) : Nat) : Int) - n).natAbs ≤
      (((2 ^ 23 : Nat) * (d * 2 ^ excessBits (n / d) : Nat) : Int) - n).natAbs := by
    by_cases h : 2 ^ 23 = roundedSig n d
    · rw [h]
    · exact divHalfEven_nearest n (by positivity) h
  have hbinade : ((2 ^ 23 : Nat) * (d * 2 ^ excessBits (n / d) : Nat) : Int) =
      (d * 2 ^ (23 + excessBits (n / d)) : Nat) := by
    push_cast
    ring
  rw [hbinade] at hround
  refine hround.trans_lt ?_
  rw [← Nat.cast_mul]
  omega

/-- Settles O39: a datum that counts whole last places of the rounding is farther off than the rounded significand, or
equally far and then that significand is even; any other datum lies below the binade. -/
theorem roundingIsNearestTiesToEven : Obligations.RoundingIsNearestTiesToEven := by
  intro n d hd hn
  have hfin : (roundUnits n d).toNat < 0x7F800000 := (roundUnits_le hd (by decide) hn).trans_lt (by decide)
  have hmag := (magUnits_roundUnits hfin).1
  refine ⟨hfin, fun b hb => ?_⟩
  by_cases hne : b = roundUnits n d
  · exact ⟨by rw [hne], fun h => absurd hne h⟩
  rw [mul_magUnits_of_multiple hmag]
  obtain ⟨j, hj⟩ | ⟨hk, hlow⟩ := magUnits_multiple_or_lt b (excessBits (n / d))
  · have hpos : 0 < d * 2 ^ excessBits (n / d) := by positivity
    have hsig : j ≠ roundedSig n d := by
      rintro rfl
      exact hne (eq_of_magUnits_eq (by omega) (by omega) (hj.trans hmag.symm))
    rw [mul_magUnits_of_multiple hj]
    refine ⟨divHalfEven_nearest n hpos hsig, fun _ htie => ?_⟩
    have heven : roundedSig n d % 2 = 0 := divHalfEven_even_of_tie n hpos hsig htie
    have hword := toNat_roundUnits n d
    rw [BitVec.getLsbD, Nat.testBit_zero, decide_eq_false_iff_not]
    omega
  · have hlt := error_lt_of_below_binade hd hk hlow
    exact ⟨hlt.le, fun _ htie => absurd htie hlt.ne⟩

end Sys2Proof.Machine
end

section
/-! SUPPORT. The quantizers (40_datapath.md section 4): range of the scaler, order, ends, and levels by words (R59,
R64, R65). -/

namespace Sys2Proof.Machine

/-! ## Range of the scaler -/

/-- Where the maximum level is itself the value of a datum, no product rounds past it (R59). -/
theorem scale_clamp01_le {m : Nat} {top : Word} (hfin : top.toNat < 0x7F800000)
    (htop : magUnits top = m * unitsOfOne) (b : Word) : (scale (clamp01 b) m).toNat ≤ top.toNat := by
  refine roundUnits_le Nat.one_pos hfin.le ?_
  rw [one_mul, htop]
  exact Nat.mul_le_mul_left m (magUnits_clamp01_le b)

/-- Both maximum levels are values of finite data, whose last place is less than `m` × 2^126 units (R59). -/
theorem exists_top {m : Nat} (hm : m = 1023 ∨ m = 3) :
    ∃ top : Word, top.toNat ≤ 0x447FC000 ∧ magUnits top = m * unitsOfOne ∧
      2 ^ (top.toNat / 2 ^ 23 - 1) < m * 2 ^ 126 := by
  obtain rfl | rfl := hm
  · exact ⟨0x447FC000, by decide, by decide, by decide⟩
  · exact ⟨0x40400000, by decide, by decide, by decide⟩

/-- Settles O41: no product rounds past the datum of the maximum level. -/
theorem scalerRange : Obligations.ScalerRange := by
  refine ⟨fun b m hm => ?_, by decide, by decide, by decide⟩
  obtain ⟨top, hfin, htop, -⟩ := exists_top hm
  have hle := scale_clamp01_le (by omega) htop b
  exact ⟨f32val_of_lt (by omega), (magUnits_le_magUnits (by omega) hle).trans_eq htop⟩

theorem quantize_le_of_maxLevel {m : Nat} (hm : m = 1023 ∨ m = 3) (b : Word) : quantize b m ≤ m := by
  obtain ⟨top, hfin, htop, -⟩ := exists_top hm
  exact quantize_le (by omega) htop b

/-! ## The order of the levels -/

theorem toNat_roundUnits_le (n d : Nat) : (roundUnits n d).toNat ≤ 0x7F800000 := by
  rw [toNat_roundUnits]
  exact min_le_right _ _

/-- A larger clamped value has a product that is not smaller. -/
theorem magUnits_scale_mono {c₁ c₂ : Word} (h : magUnits c₁ ≤ magUnits c₂) (m : Nat) :
    magUnits (scale c₁ m) ≤ magUnits (scale c₂ m) :=
  magUnits_le_magUnits ((toNat_roundUnits_le _ _).trans_lt (by decide))
    (roundUnits_mono (Nat.mul_le_mul_left m h) 1)

theorem roundHalfAway_mono {p q : Word} (h : magUnits p ≤ magUnits q) : roundHalfAway p ≤ roundHalfAway q :=
  Nat.div_le_div_right (by omega)

/-- The level depends on the value alone, clamped to [0, 1], and rises with it. -/
theorem quantize_mono_of_clamped {a b : Word} (h : magUnits (clamp01 a) ≤ magUnits (clamp01 b)) (m : Nat) :
    quantize a m ≤ quantize b m :=
  roundHalfAway_mono (magUnits_scale_mono h m)

/-- A value clamped to [0, 1], in units, a NaN counting as 0 (R56). -/
def clampedUnits : F32Val → Nat
  | .nan => 0
  | .inf true => 0
  | .inf false => unitsOfOne
  | .finite u => min u.toNat unitsOfOne

/-- The clamper clamps the value (R56). -/
theorem magUnits_clamp01 (b : Word) : magUnits (clamp01 b) = clampedUnits (f32val b) := by
  cases hb : f32val b with
  | nan =>
    have hc : clamp01 b = 0x00000000 := by rw [clamp01, hb]
    rw [hc]
    rfl
  | inf negative =>
    cases negative with
    | false =>
      have hc : clamp01 b = 0x3F800000 := by rw [clamp01, hb]
      rw [hc, magUnits_one]
      rfl
    | true =>
      have hc : clamp01 b = 0x00000000 := by rw [clamp01, hb]
      rw [hc]
      rfl
  | finite u =>
    rw [clampedUnits]
    by_cases h0 : u < 0
    · have hc : clamp01 b = 0 := by rw [clamp01, hb]; exact if_pos h0
      rw [hc, Int.toNat_of_nonpos h0.le, Nat.zero_min]
      rfl
    by_cases h1 : (unitsOfOne : Int) < u
    · have hc : clamp01 b = 0x3F800000 := by rw [clamp01, hb]; exact (if_neg h0).trans (if_pos h1)
      rw [hc, magUnits_one, min_eq_right (by omega)]
    · rw [clamp01_of_range hb (not_lt.mp h0) (not_lt.mp h1), magUnits_of_finite hb, min_eq_left (by omega)]
      omega

/-- Clamping keeps the order of the values. -/
theorem clampedUnits_mono {v w : F32Val} (h : F32Val.le v w = true) : clampedUnits v ≤ clampedUnits w := by
  match v, w with
  | .inf true, _ => exact Nat.zero_le _
  | .inf false, .inf false => exact le_rfl
  | .finite a, .inf false => exact min_le_right _ _
  | .finite a, .finite b =>
    have hab : a ≤ b := by simpa [F32Val.le] using h
    exact min_le_min_right _ (Int.toNat_le_toNat hab)

/-- The levels follow the order of the values (R64). -/
theorem quantize_mono {a b : Word} (h : F32Val.le (f32val a) (f32val b) = true) (m : Nat) :
    quantize a m ≤ quantize b m := by
  apply quantize_mono_of_clamped
  rw [magUnits_clamp01, magUnits_clamp01]
  exact clampedUnits_mono h

/-- Settles O45: clamping, scaling, rounding and converting each keep the order. -/
theorem quantizersAreMonotone : Obligations.QuantizersAreMonotone :=
  fun _ _ m _ h => quantize_mono h m

/-! ## The ends -/

theorem quantize_zero {m : Nat} (hm : m = 1023 ∨ m = 3) : quantize 0x00000000 m = 0 := by
  obtain rfl | rfl := hm <;> decide

theorem quantize_one {m : Nat} (hm : m = 1023 ∨ m = 3) : quantize 0x3F800000 m = m := by
  obtain rfl | rfl := hm <;> decide

theorem quantize_of_isNaN {b : Word} (hb : isNaN b = true) {m : Nat} (hm : m = 1023 ∨ m = 3) : quantize b m = 0 := by
  have hclamp : clamp01 b = clamp01 0 := by
    rw [clamp01, f32val, if_pos hb]
    rfl
  rw [quantize, hclamp]
  exact quantize_zero hm

theorem quantize_of_le_zero {b : Word} (hb : F32Val.le (f32val b) (.finite 0) = true) {m : Nat}
    (hm : m = 1023 ∨ m = 3) : quantize b m = 0 :=
  Nat.le_zero.mp ((quantize_mono (b := 0x00000000) hb m).trans_eq (quantize_zero hm))

theorem quantize_of_one_le {b : Word} (hb : F32Val.le (.finite unitsOfOne) (f32val b) = true) {m : Nat}
    (hm : m = 1023 ∨ m = 3) : quantize b m = m := by
  have hone : f32val 0x3F800000 = .finite unitsOfOne := by decide
  exact (quantize_le_of_maxLevel hm b).antisymm
    ((quantize_one hm).symm.trans_le (quantize_mono (by rwa [hone]) m))

/-- Settles O44: the levels of the data 0.0 and 1.0 bound those of the values beyond them. -/
theorem quantizerEnds : Obligations.QuantizerEnds :=
  fun _ _ hm => ⟨fun h => quantize_of_isNaN h hm, fun h => quantize_of_le_zero h hm, fun h => quantize_of_one_le h hm⟩

/-- A zero or subnormal lies at or below the least normal datum, whatever its sign (R9). -/
theorem f32val_le_of_exponent_zero {b : Word} (hb : f32Exponent b = 0) :
    F32Val.le (f32val b) (f32val 0x00800000) = true := by
  have hmin : f32val 0x00800000 = .finite (2 ^ 23 : Nat) := by decide
  have hf := f32Fraction_lt b
  rw [hmin, f32val, magUnits_of_exponent_zero hb, isNaN, hb]
  have hle : (if f32Negative b then -(f32Fraction b : Int) else f32Fraction b) ≤ (2 ^ 23 : Nat) := by
    split <;> omega
  exact decide_eq_true hle

/-- Settles O48: the least normal datum has level 0 in both quantizers. -/
theorem subnormalsGiveLevelZero : Obligations.SubnormalsGiveLevelZero := by
  intro b hb
  have hle := f32val_le_of_exponent_zero hb
  exact ⟨Nat.le_zero.mp ((quantize_mono hle 1023).trans_eq (by decide)),
    Nat.le_zero.mp ((quantize_mono hle 3).trans_eq (by decide))⟩

/-! ## Levels by words -/

/-- Up to plus infinity the order of the words is the order of the values (R9). -/
theorem f32val_le_of_toNat_le {a b : Word} (hb : b.toNat ≤ 0x7F800000) (hab : a.toNat ≤ b.toNat) :
    F32Val.le (f32val a) (f32val b) = true := by
  have hinf : f32val 0x7F800000 = .inf false := by decide
  obtain hlt | heq := hb.lt_or_eq
  · rw [f32val_of_lt hlt, f32val_of_lt (hab.trans_lt hlt)]
    simpa [F32Val.le] using magUnits_le_magUnits (by omega) hab
  · obtain rfl : b = 0x7F800000 := BitVec.eq_of_toNat_eq heq
    obtain hlt | heq := hab.lt_or_eq
    · rw [hinf, f32val_of_lt hlt]
      rfl
    · rw [BitVec.eq_of_toNat_eq heq, hinf]
      rfl

/-- Between two words of one level every word has that level. -/
theorem quantize_eq_of_between {m k : Nat} {lo hi b : Word} (hlo : quantize lo m = k) (hhi : quantize hi m = k)
    (hfin : hi.toNat ≤ 0x7F800000) (hlb : lo.toNat ≤ b.toNat) (hbh : b.toNat ≤ hi.toNat) : quantize b m = k :=
  ((quantize_mono (f32val_le_of_toNat_le hfin hbh) m).trans_eq hhi).antisymm
    (hlo.symm.trans_le (quantize_mono (f32val_le_of_toNat_le (hbh.trans hfin) hlb) m))

/-- The words that are not NaN and have sign bit 0 are those up to plus infinity (R9). -/
theorem toNat_le_of_not_isNaN {b : Word} (hnan : isNaN b = false) (hsign : f32Negative b = false) :
    b.toNat ≤ 0x7F800000 := by
  have hbit : b.toNat / 2 ^ 31 % 2 ≠ 1 := by
    simpa [f32Negative, BitVec.getLsbD, Nat.testBit_eq_decide_div_mod_eq] using hsign
  have hspecial : ¬ (f32Exponent b = 255 ∧ f32Fraction b ≠ 0) := by simpa [isNaN] using hnan
  rw [f32Exponent_eq, f32Fraction_eq] at hspecial
  omega

/-- A negative datum is at or below 0. -/
theorem f32val_le_zero_of_negative {b : Word} (hnan : isNaN b = false) (hsign : f32Negative b = true) :
    F32Val.le (f32val b) (.finite 0) = true := by
  rw [f32val, hnan, hsign, if_neg (by decide)]
  split <;> simp [F32Val.le]

/-- Settles O46: at each threshold the level changes, and between two thresholds it does not. -/
theorem twoBitThresholds : Obligations.TwoBitThresholds := by
  intro b
  rw [toNat_q2]
  cases hnan : isNaN b with
  | true => exact quantize_of_isNaN hnan (.inr rfl)
  | false =>
    cases hsign : f32Negative b with
    | true => exact quantize_of_le_zero (f32val_le_zero_of_negative hnan hsign) (.inr rfl)
    | false =>
      have hb := toNat_le_of_not_isNaN hnan hsign
      rw [if_neg (by decide)]
      split_ifs with h1 h2 h3
      · exact quantize_eq_of_between (lo := 0x00000000) (hi := 0x3E2AAAAA) (by decide) (by decide) (by decide)
          (Nat.zero_le _) (Nat.le_of_lt_succ h1)
      · exact quantize_eq_of_between (lo := 0x3E2AAAAB) (hi := 0x3EFFFFFF) (by decide) (by decide) (by decide)
          (not_lt.mp h1) (Nat.le_of_lt_succ h2)
      · exact quantize_eq_of_between (lo := 0x3F000000) (hi := 0x3F555554) (by decide) (by decide) (by decide)
          (not_lt.mp h2) (Nat.le_of_lt_succ h3)
      · exact quantize_eq_of_between (lo := 0x3F555555) (hi := 0x7F800000) (by decide) (by decide) (by decide)
          (not_lt.mp h3) hb

end Sys2Proof.Machine
end

section
/-! SUPPORT. Grid points and thresholds (40_datapath.md sections 4 and 6): the error of a round trip (R72), grid points
as fixed points (R64), and the exact tie at every threshold (R64). -/

namespace Sys2Proof.Machine

/-! ## The error of the quantizers -/

/-- A product in the range of a quantizer is off by less than `m` × 2^125 units: its last place is at most that of
`m`. -/
theorem scale_error {m : Nat} (hm : m = 1023 ∨ m = 3) {c : Word} (hc : magUnits c ≤ unitsOfOne) :
    2 * ((magUnits (scale c m) : Int) - (m * magUnits c : Nat)).natAbs < m * 2 ^ 126 := by
  obtain ⟨top, hfin, htop, hulp⟩ := exists_top hm
  have hle : (scale c m).toNat ≤ top.toNat := by
    refine roundUnits_le Nat.one_pos (by omega) ?_
    rw [one_mul, htop]
    exact Nat.mul_le_mul_left m hc
  have herr := roundUnits_error (m * magUnits c) Nat.one_pos (by rw [scale] at hle; omega)
  have hexp : f32Exponent (scale c m) - 1 ≤ top.toNat / 2 ^ 23 - 1 := by
    rw [f32Exponent_eq]
    omega
  calc
    2 * ((magUnits (scale c m) : Int) - (m * magUnits c : Nat)).natAbs ≤ 2 ^ (f32Exponent (scale c m) - 1) := by
      simpa [scale] using herr
    _ ≤ 2 ^ (top.toNat / 2 ^ 23 - 1) := Nat.pow_le_pow_right (by decide) hexp
    _ < m * 2 ^ 126 := hulp

/-- The converter is off by at most one half (R60). -/
theorem roundHalfAway_error (p : Word) :
    2 * ((roundHalfAway p * unitsOfOne : Int) - magUnits p).natAbs ≤ unitsOfOne := by
  rw [roundHalfAway]
  unfold unitsOfOne
  omega

theorem magUnits_le_of_le_one {b : Word} (hb : b.toNat ≤ 0x3F800000) : magUnits b ≤ unitsOfOne :=
  (magUnits_le_magUnits (by decide) hb).trans_eq magUnits_one

theorem clamp01_of_le_one {b : Word} (hb : b.toNat ≤ 0x3F800000) : clamp01 b = b :=
  clamp01_of_range (f32val_of_lt (by omega)) (Int.natCast_nonneg _)
    (Int.ofNat_le.mpr (magUnits_le_of_le_one hb))

/-- The level of a value in [0, 1] is off from the product by less than half a level and `m` × 2^125 units. -/
theorem quantize_error {m : Nat} (hm : m = 1023 ∨ m = 3) {b : Word} (hb : b.toNat ≤ 0x3F800000) :
    2 * ((quantize b m * unitsOfOne : Int) - (m * magUnits b : Nat)).natAbs < unitsOfOne + m * 2 ^ 126 := by
  have hscale := scale_error hm (magUnits_le_of_le_one hb)
  have hround := roundHalfAway_error (scale b m)
  rw [quantize, clamp01_of_le_one hb]
  omega

/-! ## The round trip -/

/-- A value quantized and normalised again is off by less than half a level and `m` × 2^126 units, on the scale of the
levels. -/
theorem normalize_quantize_error {m : Nat} (hm : m = 1023 ∨ m = 3) {b : Word} (hb : b.toNat ≤ 0x3F800000) :
    2 * ((magUnits (normalize (quantize b m) m) * m : Int) - (m * magUnits b : Nat)).natAbs
      < unitsOfOne + 2 * (m * 2 ^ 126) := by
  have hq := quantize_error hm hb
  have hn := normalize_error_le (k := quantize b m) (by omega : 0 < m) (quantize_le_of_maxLevel hm b)
  omega

/-- Settles O51: the error bound on the scale of the levels, divided by `m` levels and 2^149 units. -/
theorem roundTripErrorBound : Obligations.RoundTripErrorBound := by
  intro b m hm hb
  have hunits : (unitsOfOne : Rat) = 2 ^ 149 := by norm_num [unitsOfOne]
  have hpos : (0 : Rat) < 2 * m := by exact_mod_cast (by omega : 0 < 2 * m)
  have hscaled : |(magUnits (normalize (quantize b m) m) : Rat) - magUnits b| * (2 * m) <
      2 ^ 149 + 2 * m * 2 ^ 126 := by
    have herr := normalize_quantize_error hm hb
    rw [Nat.cast_mul, mul_comm (m : Int), ← sub_mul, Int.natAbs_mul, Int.natAbs_natCast] at herr
    have hcast := (Nat.cast_lt (α := Rat)).mpr herr
    push_cast [Nat.cast_natAbs, hunits] at hcast
    linarith
  have hbound : (1 / (2 * (m : Rat)) + 1 / 2 ^ 23) * 2 ^ 149 = (2 ^ 149 + 2 * m * 2 ^ 126) / (2 * m) := by
    have hne : (m : Rat) ≠ 0 := by
      intro h
      simp [h] at hpos
    field_simp
  rw [f32rat, f32rat, hunits, ← sub_div, abs_div, abs_of_pos (by positivity : (0 : Rat) < 2 ^ 149),
    div_lt_iff₀ (by positivity), hbound, lt_div_iff₀ hpos]
  exact hscaled

/-! ## Grid points -/

/-- A level normalised and quantized again is the level: both errors together are below one level (R64). -/
theorem quantize_normalize {m k : Nat} (hm : m = 1023 ∨ m = 3) (hk : k ≤ m) : quantize (normalize k m) m = k := by
  have hq := quantize_error hm (normalize_le_one (by omega) hk)
  have hn := normalize_error_le (by omega : 0 < m) hk
  rw [Nat.cast_mul, mul_comm (m : Int)] at hq
  unfold unitsOfOne at hq hn
  omega

theorem fieldLevel_le (v : Word) (f : Field) : fieldLevel v f ≤ maxLevel f := by
  cases f with
  | x | y | z | w => exact Nat.le_of_lt_succ (BitVec.isLt _)

/-- The reader of a field completes with a response, and the writer of the field with that operand keeps W. -/
theorem exec_writerOf_of_exec_readerOf (f : Field) (s : State) :
    ∃ t u v, exec (readerOf f) s = .next t ∧ t.rsp = some v ∧ exec (writerOf f v) t = .next u ∧ u.w = s.w := by
  refine ⟨_, _, _, exec_readerOf f s, rfl, exec_writerOf f _ _, eq_of_fieldLevel_eq fun g => ?_⟩
  have hmax : maxLevel f = 1023 ∨ maxLevel f = 3 := by cases f <;> decide
  rw [State.store_w, fieldLevel_insertField_writerLevel, quantize_normalize hmax (fieldLevel_le s.w f)]
  split
  · next h => rw [h]
  · rfl

/-- Settles O18: each field's level is a grid point of its quantizer, which the round trip keeps. -/
theorem writeBackKeepsWord : Obligations.WriteBackKeepsWord := fun s =>
  ⟨exec_writerOf_of_exec_readerOf .x s, exec_writerOf_of_exec_readerOf .y s, exec_writerOf_of_exec_readerOf .z s,
    exec_writerOf_of_exec_readerOf .w s⟩

/-! ## Thresholds -/

/-- An integer within less than one half of the quotient is what the quotient rounds to. -/
theorem divHalfEven_eq_of_near {n d s : Nat} (hd : 0 < d) (h : 2 * ((s * d : Int) - n).natAbs < d) :
    divHalfEven n d = s := by
  by_contra hne
  have herr := divHalfEven_error n hd
  have hother := le_error_of_ne_divHalfEven n hd (Ne.symm hne)
  omega

/-- A number within less than half a last place of a significand inside a binade rounds to that significand. -/
theorem magUnits_roundUnits_of_near {n s e : Nat} (he : e ≤ 250) (hlo : 2 ^ 23 < s) (hhi : s < 2 ^ 24)
    (h : 2 * ((s * 2 ^ e : Nat) - (n : Int)).natAbs < 2 ^ e) : magUnits (roundUnits n 1) = s * 2 ^ e := by
  have hlow : (2 ^ 23 + 1) * 2 ^ e ≤ s * 2 ^ e := Nat.mul_le_mul_right _ hlo
  have hhigh : s * 2 ^ e + 1 * 2 ^ e ≤ 2 ^ 24 * 2 ^ e := by
    rw [← Nat.add_mul]
    exact Nat.mul_le_mul_right _ hhi
  have hbits : excessBits (n / 1) = e := by
    rw [Nat.div_one]
    refine excessBits_eq ?_ ?_ <;> rw [pow_add] <;> omega
  have hsig : roundedSig n 1 = s := by
    rw [roundedSig, hbits]
    exact divHalfEven_eq_of_near (by positivity) (by push_cast; simpa using h)
  have hfin : (roundUnits n 1).toNat < 0x7F800000 := by
    rw [toNat_roundUnits, hbits, hsig]
    omega
  rw [(magUnits_roundUnits hfin).1, hbits, hsig]

/-- Where the datum nearest to a 1023rd of a datum lies ten binades below it, 1023 of its last places are less than one
last place of that datum, so its product rounds to that datum. -/
theorem magUnits_scale_roundUnits {s e : Nat} (he : e ≤ 240) (hlo : 2 ^ 23 < s) (hhi : s < 2 ^ 24)
    (hbinade : 2 ^ 10 * s ≤ 1023 * (2 ^ 24 - 1)) :
    magUnits (scale (roundUnits (s * 2 ^ (e + 10)) 1023) 1023) = s * 2 ^ (e + 10) := by
  refine magUnits_roundUnits_of_near (by omega) hlo hhi ?_
  generalize hn : s * 2 ^ (e + 10) = n
  have htop : (BitVec.ofNat 32 (2 ^ 23 * e + (2 ^ 24 - 1))).toNat = 2 ^ 23 * e + (2 ^ 24 - 1) := by
    rw [BitVec.toNat_ofNat, Nat.mod_eq_of_lt (by omega)]
  have hmag := (magUnits_of_significand htop (by omega) (by decide) (fun _ => by decide)).1
  have hbelow : n ≤ 1023 * ((2 ^ 24 - 1) * 2 ^ e) :=
    calc
      n = 2 ^ 10 * s * 2 ^ e := by rw [← hn]; ring
      _ ≤ 1023 * (2 ^ 24 - 1) * 2 ^ e := Nat.mul_le_mul_right _ hbinade
      _ = 1023 * ((2 ^ 24 - 1) * 2 ^ e) := mul_assoc _ _ _
  have hle := roundUnits_le (d := 1023) (by decide) (by omega) (hmag ▸ hbelow)
  rw [htop] at hle
  have herr := roundUnits_error n (by decide : 0 < 1023) (by omega)
  have hexp : f32Exponent (roundUnits n 1023) - 1 ≤ e := by
    rw [f32Exponent_eq]
    omega
  have hulp : 1023 * 2 ^ (f32Exponent (roundUnits n 1023) - 1) < 2 ^ (e + 10) :=
    calc
      1023 * 2 ^ (f32Exponent (roundUnits n 1023) - 1) ≤ 1023 * 2 ^ e :=
        Nat.mul_le_mul_left _ (Nat.pow_le_pow_right (by decide) hexp)
      _ < 2 ^ 10 * 2 ^ e := Nat.mul_lt_mul_of_pos_right (by decide) (by positivity)
      _ = 2 ^ (e + 10) := by rw [← pow_add, add_comm]
  omega

/-- An odd number below 2046, but 1 and 1023, times a power of two is a significand of the kind above. -/
theorem exists_significand {a : Nat} (hodd : a % 2 = 1) (h1 : a ≠ 1) (h1023 : a ≠ 1023) (ha : a < 2046) :
    ∃ s j, j ≤ 10 ∧ 2 ^ 23 < s ∧ s < 2 ^ 24 ∧ 2 ^ 10 * s ≤ 1023 * (2 ^ 24 - 1) ∧ s * 2 ^ j = 2 ^ 23 * a := by
  obtain ⟨j, hlo, hhi⟩ : ∃ j, 2 ^ j ≤ a ∧ a < 2 ^ (j + 1) :=
    ⟨Nat.log 2 a, Nat.pow_log_le_self 2 (by omega), Nat.lt_pow_succ_log_self (by decide) _⟩
  have hj : j < 11 := (Nat.pow_lt_pow_iff_right (by decide)).mp (by omega : 2 ^ j < 2 ^ 11)
  refine ⟨2 ^ (23 - j) * a, j, by omega, ?_⟩
  interval_cases j <;> omega

/-- For every level there is a datum whose product is exactly half a level below: of the 10-bit levels, level 1 has its
tie at a power of two, level 512 an exact product, and the others are as in the lemma above (R64). -/
theorem exists_tie {m k : Nat} (hm : m = 1023 ∨ m = 3) (hk1 : 1 ≤ k) (hk : k ≤ m) :
    ∃ v : Word, v.toNat ≤ 0x3F800000 ∧ 2 * magUnits (scale v m) = (2 * k - 1) * unitsOfOne := by
  obtain rfl | rfl := hm
  · by_cases h1 : k = 1
    · exact ⟨0x3A002008, by decide, by subst h1; decide⟩
    by_cases h512 : k = 512
    · exact ⟨0x3F000000, by decide, by subst h512; decide⟩
    obtain ⟨s, j, hj, hlo, hhi, hbinade, hs⟩ :=
      exists_significand (a := 2 * k - 1) (by omega) (by omega) (by omega) (by omega)
    have hvalue : 2 * (s * 2 ^ (115 + j + 10)) = (2 * k - 1) * unitsOfOne :=
      calc
        2 * (s * 2 ^ (115 + j + 10)) = 2 ^ 126 * (s * 2 ^ j) := by ring
        _ = (2 * k - 1) * unitsOfOne := by rw [hs, unitsOfOne]; ring
    refine ⟨roundUnits (s * 2 ^ (115 + j + 10)) 1023, ?_, ?_⟩
    · refine roundUnits_le (b := 0x3F800000) (by decide) (by decide) ?_
      have hmax : (2 * k - 1) * unitsOfOne ≤ 2046 * unitsOfOne := Nat.mul_le_mul_right _ (by omega)
      rw [magUnits_one]
      omega
    · rw [magUnits_scale_roundUnits (by omega) hlo hhi hbinade, hvalue]
  · interval_cases k
    · exact ⟨0x3E2AAAAB, by decide, by decide⟩
    · exact ⟨0x3F000000, by decide, by decide⟩
    · exact ⟨0x3F555555, by decide, by decide⟩

theorem magUnits_scale_zero (m : Nat) : magUnits (scale 0 m) = 0 := by
  rw [scale, show magUnits 0 = 0 from rfl, mul_zero]
  rfl

/-- A product of at least `k` - 1/2 converts to at least `k`, and a smaller one does not (R60). -/
theorem le_roundHalfAway_iff {p : Word} {k : Nat} (hk : 1 ≤ k) :
    k ≤ roundHalfAway p ↔ (2 * k - 1) * unitsOfOne ≤ 2 * magUnits p := by
  rw [roundHalfAway]
  unfold unitsOfOne
  omega

/-- A product of exactly `k` - 1/2 goes up, to `k` (R60). -/
theorem roundHalfAway_of_tie {p : Word} {k : Nat} (hk : 1 ≤ k) (h : 2 * magUnits p = (2 * k - 1) * unitsOfOne) :
    roundHalfAway p = k := by
  refine le_antisymm ?_ ((le_roundHalfAway_iff hk).mpr h.ge)
  rw [← Nat.lt_succ_iff, ← not_le, le_roundHalfAway_iff (by omega), h, not_le]
  exact Nat.mul_lt_mul_of_pos_right (by omega) unitsOfOne_pos

/-- There is a least word whose product reaches a given number of units, where some word's does. -/
theorem exists_least_scale {m n : Nat} {v₀ : Word} (h₀ : n ≤ 2 * magUnits (scale v₀ m)) :
    ∃ v : Word, v.toNat ≤ v₀.toNat ∧ n ≤ 2 * magUnits (scale v m) ∧
      ∀ b : Word, b.toNat < v.toNat → 2 * magUnits (scale b m) < n := by
  obtain ⟨v, hv, hleast⟩ := WellFounded.has_min (measure BitVec.toNat).wf {v | n ≤ 2 * magUnits (scale v m)} ⟨v₀, h₀⟩
  exact ⟨v, not_lt.mp (hleast v₀ h₀), hv, fun b hb => not_le.mp fun h => hleast b h hb⟩

/-- Settles O47: the least word whose product reaches the tie is at most the one that meets it, so it meets it too. -/
theorem thresholdsAreExactTies : Obligations.ThresholdsAreExactTies := by
  intro m k hm hk1 hk
  obtain ⟨v₀, hv₀, htie₀⟩ := exists_tie hm hk1 hk
  obtain ⟨v, hle, hreach, hleast⟩ := exists_least_scale htie₀.ge
  have hv : v.toNat ≤ 0x3F800000 := hle.trans hv₀
  have htie : 2 * magUnits (scale v m) = (2 * k - 1) * unitsOfOne := by
    have hmono := magUnits_scale_mono (magUnits_le_magUnits (by omega) hle) m
    omega
  refine ⟨v, ?_, hv, ?_, fun b hb => ?_, htie⟩
  · have hpos : 0 < (2 * k - 1) * unitsOfOne := Nat.mul_pos (by omega) unitsOfOne_pos
    refine Nat.pos_of_ne_zero fun h0 => ?_
    rw [BitVec.eq_of_toNat_eq (y := 0) h0, magUnits_scale_zero] at htie
    omega
  · rw [quantize, clamp01_of_le_one hv]
    exact roundHalfAway_of_tie hk1 htie
  · rw [quantize, clamp01_of_le_one (hb.le.trans hv), ← not_le, le_roundHalfAway_iff hk1, not_le]
    exact hleast b hb

end Sys2Proof.Machine
end

section
/-! SUPPORT. Assembly text (30_encoding.md section 5): a word's hexadecimal digits give it back, the operands of a line
are found again between its commas, and so the text of a command assembles to its encoding (R50, R51). -/

namespace Sys2Proof.Machine

/-! ## Hexadecimal words -/

theorem hexDigit_hexChar {n : Nat} (h : n < 16) : hexDigit (hexChar n) = some n := by
  revert n
  decide

/-- The digits of a list of numbers below 16 write the number that the list has in base 16. -/
theorem digitsValue_map_hexChar {ns : List Nat} (h : ∀ n ∈ ns, n < 16) (acc : Nat) :
    digitsValue hexDigit 16 acc (ns.map hexChar) = some (ns.foldl (fun a n => a * 16 + n) acc) := by
  induction ns generalizing acc with
  | nil => rfl
  | cons n ns ih =>
    obtain ⟨hn, hns⟩ := List.forall_mem_cons.mp h
    rw [List.map_cons, digitsValue, hexDigit_hexChar hn, List.foldl_cons]
    exact ih hns _

/-- The eight digits of a word as numbers, the most significant first. -/
def hexDigits (v : Word) : List Nat := [28, 24, 20, 16, 12, 8, 4, 0].map fun i => (v.extractLsb' i 4).toNat

theorem hexWordText_eq (v : Word) : hexWordText v = (hexDigits v).map hexChar := rfl

theorem hexDigits_lt (v : Word) : ∀ n ∈ hexDigits v, n < 16 := by
  intro n hn
  obtain ⟨i, -, rfl⟩ := List.mem_map.mp hn
  exact BitVec.isLt _

/-- The digits of a word write the word (R51). -/
theorem foldl_hexDigits (v : Word) : (hexDigits v).foldl (fun a n => a * 16 + n) 0 = v.toNat := by
  have hv := v.isLt
  simp only [hexDigits, List.map_cons, List.map_nil, List.foldl_cons, List.foldl_nil, BitVec.extractLsb'_toNat,
    Nat.shiftRight_eq_div_pow]
  omega

theorem parseHexWord_literalText (v : Word) : parseHexWord (literalText v) = some v := by
  have hlen : (hexWordText v).length = 8 := rfl
  rw [literalText, parseHexWord, if_pos hlen, hexWordText_eq, digitsValue_map_hexChar (hexDigits_lt v),
    foldl_hexDigits, Option.map_some, BitVec.ofNat_toNat, BitVec.setWidth_eq]

/-- A hexadecimal word is none of the named literals, so a float operand is read as the word (R51). -/
theorem parseFloat_literalText (v : Word) : parseFloat (literalText v) = some v := by
  have hnamed : parseFloat (literalText v) = parseHexWord (literalText v) := by simp [parseFloat, literalText]
  rw [hnamed, parseHexWord_literalText]

theorem floatOperand_literalText (v : Word) : floatOperand (literalText v) = .ok v := by
  rw [floatOperand, parseFloat_literalText]

theorem rawOperand_literalText (v : Word) : rawOperand (literalText v) = .ok v := by
  rw [rawOperand, parseHexWord_literalText]

/-- The mnemonic of a command and its operands as hexadecimal words name the command (R50). -/
theorem assembleCommand_operandsText (i : Instr) : assembleCommand (mnemonicOf i) (operandsText i) = .ok i := by
  cases i with
  | create | setxyz =>
    simp [assembleCommand, mnemonicOf, operandsText, floatOperand_literalText]
    rfl
  | fromraw => simp [assembleCommand, mnemonicOf, operandsText, rawOperand_literalText]
  | setx | sety | setz | setw =>
    simp [assembleCommand, mnemonicOf, operandsText, oneFloat, floatOperand_literalText]
  | getx | gety | getz | getw | rawval => simp [assembleCommand, mnemonicOf, operandsText, noOperands]

/-! ## Mnemonics and operands as texts -/

/-- A character that is no blank, no comma and no comment mark. -/
def plainChar (c : Char) : Bool := c != ' ' && c != ',' && c != ';'

/-- A mnemonic or an operand: it has a character, and all its characters are plain. -/
def Plain (cs : List Char) : Prop := cs ≠ [] ∧ cs.all plainChar = true

theorem plainChar_hexChar {n : Nat} (h : n < 16) : plainChar (hexChar n) = true := by
  revert n
  decide

theorem plain_literalText (v : Word) : Plain (literalText v) := by
  refine ⟨List.cons_ne_nil _ _, ?_⟩
  have hdigits : (hexWordText v).all plainChar = true := by
    rw [hexWordText_eq, List.all_map, List.all_eq_true]
    exact fun n hn => plainChar_hexChar (hexDigits_lt v n hn)
  rw [literalText, List.all_cons, List.all_cons, hdigits]
  rfl

theorem plain_mnemonicOf (i : Instr) : Plain (mnemonicOf i) := by
  cases i <;> exact ⟨List.cons_ne_nil _ _, rfl⟩

theorem operandsText_eq (i : Instr) : operandsText i = (operandWords i).map literalText := by
  cases i <;> rfl

theorem plain_of_mem_operandsText {i : Instr} {cs : List Char} (h : cs ∈ operandsText i) : Plain cs := by
  rw [operandsText_eq] at h
  obtain ⟨v, -, rfl⟩ := List.mem_map.mp h
  exact plain_literalText v

theorem Plain.ne_of_mem {cs : List Char} (h : Plain cs) {c : Char} (hc : c ∈ cs) : c ≠ ' ' ∧ c ≠ ',' ∧ c ≠ ';' := by
  simpa [plainChar, and_assoc] using List.all_eq_true.mp h.2 c hc

/-! ## Blanks and comment marks -/

/-- A text in which the assembler finds nothing to cut off: no blank at its ends and no comment mark. -/
structure Tight (cs : List Char) : Prop where
  ne_nil : cs ≠ []
  head : ∀ h : cs ≠ [], cs.head h ≠ ' '
  last : ∀ h : cs ≠ [], cs.getLast h ≠ ' '
  unmarked : ∀ c ∈ cs, c ≠ ';'

theorem Plain.tight {cs : List Char} (h : Plain cs) : Tight cs where
  ne_nil := h.1
  head hne := (h.ne_of_mem (List.head_mem hne)).1
  last hne := (h.ne_of_mem (List.getLast_mem hne)).1
  unmarked _ hc := (h.ne_of_mem hc).2.2

/-- Two tight texts with an unmarked separator between them are a tight text. -/
theorem Tight.append {a b : List Char} (ha : Tight a) (hb : Tight b) {sep : List Char} (hsep : ∀ c ∈ sep, c ≠ ';') :
    Tight (a ++ sep ++ b) where
  ne_nil := by simp [ha.ne_nil]
  head _ := by
    simp only [List.append_assoc, List.head_append_of_ne_nil ha.ne_nil]
    exact ha.head _
  last _ := by
    rw [List.getLast_append_of_ne_nil _ hb.ne_nil]
    exact hb.last _
  unmarked c hc := by
    simp only [List.mem_append] at hc
    obtain (hc | hc) | hc := hc
    · exact ha.unmarked c hc
    · exact hsep c hc
    · exact hb.unmarked c hc

/-- There is nothing to trim from a tight text. -/
theorem Tight.trimBlanks_eq {cs : List Char} (h : Tight cs) : trimBlanks cs = cs := by
  have hdrop {ds : List Char} (hne : ds ≠ []) (hd : ds.head hne ≠ ' ') : ds.dropWhile (· == ' ') = ds := by
    cases ds with
    | nil => rfl
    | cons d ds => exact List.dropWhile_cons_of_neg (by simpa using hd)
  rw [trimBlanks, hdrop h.ne_nil (h.head _), hdrop (List.reverse_ne_nil_iff.mpr h.ne_nil) ?_, List.reverse_reverse]
  rw [List.head_reverse]
  exact h.last _

/-- A tight text holds no comment. -/
theorem Tight.takeWhile_eq {cs : List Char} (h : Tight cs) : cs.takeWhile (· != ';') = cs :=
  List.takeWhile_eq_self_iff.mpr fun c hc => by simpa using h.unmarked c hc

/-! ## Operands between commas -/

theorem splitCommas_plain {a : List Char} (h : ∀ c ∈ a, c ≠ ',') : splitCommas a = [a] := by
  induction a with
  | nil => rfl
  | cons c cs ih =>
    obtain ⟨hc, hcs⟩ := List.forall_mem_cons.mp h
    rw [splitCommas, if_neg hc, ih hcs]

theorem splitCommas_append_comma {a : List Char} (h : ∀ c ∈ a, c ≠ ',') (rest : List Char) :
    splitCommas (a ++ ',' :: rest) = a :: splitCommas rest := by
  induction a with
  | nil => rfl
  | cons c cs ih =>
    obtain ⟨hc, hcs⟩ := List.forall_mem_cons.mp h
    rw [List.cons_append, splitCommas, if_neg hc, ih hcs]

theorem splitCommas_ne_nil (cs : List Char) : splitCommas cs ≠ [] := by
  cases cs with
  | nil => exact List.cons_ne_nil _ _
  | cons c cs =>
    rw [splitCommas]
    split
    · exact List.cons_ne_nil _ _
    · split <;> exact List.cons_ne_nil _ _

theorem trimBlanks_blank_cons (cs : List Char) : trimBlanks (' ' :: cs) = trimBlanks cs := rfl

/-- A blank before the first operand is trimmed with it. -/
theorem map_trimBlanks_splitCommas_blank_cons (cs : List Char) :
    (splitCommas (' ' :: cs)).map trimBlanks = (splitCommas cs).map trimBlanks := by
  rw [splitCommas, if_neg (by decide)]
  cases h : splitCommas cs with
  | nil => exact absurd h (splitCommas_ne_nil cs)
  | cons p ps => rw [List.map_cons, List.map_cons, trimBlanks_blank_cons]

section Operands

variable {ops : List (List Char)} (hops : ∀ op ∈ ops, Plain op)

include hops

/-- The operands of a line are found again between its commas (R50). -/
theorem map_trimBlanks_splitCommas_joinText (hne : ops ≠ []) :
    (splitCommas (joinText [',', ' '] ops)).map trimBlanks = ops := by
  induction ops with
  | nil => exact absurd rfl hne
  | cons a rest ih =>
    obtain ⟨ha, hrest⟩ := List.forall_mem_cons.mp hops
    have hcomma : ∀ c ∈ a, c ≠ ',' := fun c hc => (ha.ne_of_mem hc).2.1
    cases rest with
    | nil => rw [joinText, splitCommas_plain hcomma, List.map_cons, ha.tight.trimBlanks_eq, List.map_nil]
    | cons b rest =>
      rw [joinText, List.append_assoc, List.cons_append, List.singleton_append, splitCommas_append_comma hcomma,
        List.map_cons, ha.tight.trimBlanks_eq, map_trimBlanks_splitCommas_blank_cons,
        ih hrest (List.cons_ne_nil _ _)]
      · simp

theorem tight_joinText (hne : ops ≠ []) : Tight (joinText [',', ' '] ops) := by
  induction ops with
  | nil => exact absurd rfl hne
  | cons a rest ih =>
    obtain ⟨ha, hrest⟩ := List.forall_mem_cons.mp hops
    cases rest with
    | nil => exact ha.tight
    | cons b rest =>
      rw [joinText]
      · exact ha.tight.append (ih hrest (List.cons_ne_nil _ _)) (by simp)
      · simp

end Operands

/-! ## Lines -/

section Lines

variable {m : List Char} (hm : Plain m)

include hm

theorem takeWhile_not_blank_append (rest : List Char) : (m ++ ' ' :: rest).takeWhile (· != ' ') = m := by
  rw [List.takeWhile_append_of_pos fun c hc => by simpa using (hm.ne_of_mem hc).1]
  simp

theorem dropWhile_not_blank_append (rest : List Char) : (m ++ ' ' :: rest).dropWhile (· != ' ') = ' ' :: rest := by
  rw [List.dropWhile_append_of_pos fun c hc => by simpa using (hm.ne_of_mem hc).1]
  simp

/-- A line that is a mnemonic alone names the command of the mnemonic without operands. -/
theorem assembleLine_mnemonic {i : Instr} (h : assembleCommand m [] = .ok i) :
    assembleLine m = .ok (some (encode i)) := by
  have hname : m.takeWhile (· != ' ') = m :=
    List.takeWhile_eq_self_iff.mpr fun c hc => by simpa using (hm.ne_of_mem hc).1
  have hargs : m.dropWhile (· != ' ') = [] :=
    List.dropWhile_eq_nil_iff.mpr fun c hc => by simpa using (hm.ne_of_mem hc).1
  have htrim : trimBlanks [] = [] := rfl
  simp [assembleLine, hm.tight.takeWhile_eq, hm.tight.trimBlanks_eq, hm.1, hname, hargs, htrim, h]

/-- A line of a mnemonic and operands names the command of both (R50). -/
theorem assembleLine_operands {ops : List (List Char)} {i : Instr} (hops : ∀ op ∈ ops, Plain op) (hne : ops ≠ [])
    (h : assembleCommand m ops = .ok i) :
    assembleLine (m ++ ' ' :: joinText [',', ' '] ops) = .ok (some (encode i)) := by
  have hjoin := tight_joinText hops hne
  have hline : Tight (m ++ ' ' :: joinText [',', ' '] ops) := by
    simpa using hm.tight.append hjoin (sep := [' ']) (by simp)
  simp [assembleLine, hline.takeWhile_eq, hline.trimBlanks_eq, takeWhile_not_blank_append hm,
    dropWhile_not_blank_append hm, trimBlanks_blank_cons, hjoin.trimBlanks_eq, hjoin.ne_nil,
    map_trimBlanks_splitCommas_joinText hops hne, h]

end Lines

/-- Settles O36: the text is a line of the mnemonic and the operands, which name the command. -/
theorem assemblyTextRoundTrip : Obligations.AssemblyTextRoundTrip := by
  intro i
  have hcommand := assembleCommand_operandsText i
  rw [asmText]
  split
  · next hops => exact assembleLine_mnemonic (plain_mnemonicOf i) (hops ▸ hcommand)
  · next hne =>
    exact assembleLine_operands (plain_mnemonicOf i) (fun _ => plain_of_mem_operandsText) hne hcommand

/-- Settles O37: the named literals by their words, the decimals by rounding their values once. -/
theorem floatLiteralWords : Obligations.FloatLiteralWords := by
  unfold Obligations.FloatLiteralWords
  decide

end Sys2Proof.Machine
end
